-- ==== Sys2Proof/Word.lean ====
section
/-! DEFINITION. The words of the machine: bytes, the command word, the operand words and the masking key
(spec/00_scope.md R10, R11, R19). -/

namespace Sys2Proof

/-- A byte, 8 bits, bit 7 the most significant (00_scope.md R10, R11). -/
abbrev Byte := BitVec 8

/-- The command word CMD, 32 bits (30_encoding.md R91). -/
abbrev CmdWord := BitVec 32

/-- The KEY operand written as one word (30_encoding.md R96). -/
abbrev KeyWord := BitVec 32

/-- A frame opcode, 4 bits (00_scope.md R10). -/
abbrev Opcode := BitVec 4

/-- The operand N, a 64-bit unsigned count (30_encoding.md R97). -/
abbrev Count := BitVec 64

/-- A masking key: exactly four bytes, `k0` first on the wire. It is a sequence and not an integer
(20_memory.md R65). -/
structure Key where
  k0 : Byte
  k1 : Byte
  k2 : Byte
  k3 : Byte
deriving DecidableEq, Repr

end Sys2Proof
end

