-- ==== Sys2Proof/Config.lean ====
section
/-! DEFINITION. The two implementation parameters of the block, MAX_PAYLOAD_LEN and RXBUF_CAP (spec/00_scope.md R9,
10_state.md R46). Each is fixed for the life of the block and the spec gives neither a value, so each is built from
a constant that has no value: a claim about them holds for every legal choice (log entry 1). -/

namespace Sys2Proof

/-- A buffer capacity: a number of bytes, or the source's unbounded buffer INF (00_scope.md R9). -/
inductive Capacity where
  | finite (bytes : Nat)
  | inf
deriving DecidableEq, Repr

/-- How far MAX_PAYLOAD_LEN lies above its least legal value 65536. No value is given (00_scope.md R9: the range is
65536 to 2^64 - 1, which has 2^64 - 65536 = 18446744073709486080 members). -/
opaque Config.lenSlack : Fin 18446744073709486080

/-- How far RXBUF_CAP lies above its least legal value MAX_PAYLOAD_LEN + 14, or none for INF. No value is given
(00_scope.md R9). -/
opaque Config.capSlack : Option Nat

/-- MAX_PAYLOAD_LEN, the largest payload length the decoder accepts (00_scope.md R9). -/
def Config.maxPayloadLen : Nat := Config.lenSlack.val + 65536

/-- RXBUF_CAP, the capacity of the receive buffer (00_scope.md R9). -/
def Config.rxbufCap : Capacity :=
  match Config.capSlack with
  | none => .inf
  | some k => .finite (k + (Config.maxPayloadLen + 14))

end Sys2Proof
end

