-- ==== Sys2Proof/Syntax.lean ====
section
/-! DEFINITION. The syntax: the wire frame, the instructions (one constructor per row of spec/opcode_table.json),
the command tuple of the host port, what an encoding is, and the written form of commands. -/

namespace Sys2Proof

/-- How a frame writes its payload length: in LEN7 itself, in LEN16, or in LEN64 (30_encoding.md R103). -/
inductive LenForm where
  | len7
  | len16
  | len64
deriving DecidableEq, Repr

/-- The operands of a wire frame, which are all of it but the opcode that names its row (30_encoding.md R100): the FIN
bit, the form its length is written in, the masking key where the MASK bit is 1, and the logical (unmasked) payload. -/
structure WireFrame where
  fin : Bool
  form : LenForm
  key : Option Key
  payload : List Byte
deriving DecidableEq, Repr

/-- The instructions, one constructor for each row of spec/opcode_table.json.

The eight commands carry the operands that 30_encoding.md R90 says they read: ENCODE its fields FIN, OPC and MSK, its
KEY word (`none` when MKV = 0) and DATA; APPEND its DATA; CONSUME its N.

The sixteen FRAME rows carry the rest of the frame whose byte 0 the row gives (log entry 6). -/
inductive Instr where
  /-- OPEN, 43_session.md R250. -/
  | openSess
  /-- CLOSE, 43_session.md R251. -/
  | closeSess
  /-- ENCODE, 40_encode.md R140. -/
  | encode (fin : Bool) (opc : Opcode) (msk : Bool) (key : Option KeyWord) (data : List Byte)
  /-- APPEND, 42_buffer.md R220. -/
  | append (data : List Byte)
  /-- DECODE, 41_decode.md R184. -/
  | decode
  /-- RECV, 41_decode.md R186. -/
  | recv
  /-- CONSUME, 42_buffer.md R222. -/
  | consume (n : Count)
  /-- STATUS, 43_session.md R252. -/
  | status
  /-- Wire frames by opcode, 30_encoding.md R107. -/
  | frameContinuation (f : WireFrame)
  | frameText (f : WireFrame)
  | frameBinary (f : WireFrame)
  | frameRsvd3 (f : WireFrame)
  | frameRsvd4 (f : WireFrame)
  | frameRsvd5 (f : WireFrame)
  | frameRsvd6 (f : WireFrame)
  | frameRsvd7 (f : WireFrame)
  | frameClose (f : WireFrame)
  | framePing (f : WireFrame)
  | framePong (f : WireFrame)
  | frameRsvd11 (f : WireFrame)
  | frameRsvd12 (f : WireFrame)
  | frameRsvd13 (f : WireFrame)
  | frameRsvd14 (f : WireFrame)
  | frameRsvd15 (f : WireFrame)
deriving DecidableEq, Repr

/-- The row of the opcode table that a frame with this opcode belongs to (30_encoding.md R107). -/
def frameInstr (opc : Opcode) (f : WireFrame) : Instr :=
  match opc.toNat with
  | 0 => .frameContinuation f
  | 1 => .frameText f
  | 2 => .frameBinary f
  | 3 => .frameRsvd3 f
  | 4 => .frameRsvd4 f
  | 5 => .frameRsvd5 f
  | 6 => .frameRsvd6 f
  | 7 => .frameRsvd7 f
  | 8 => .frameClose f
  | 9 => .framePing f
  | 10 => .framePong f
  | 11 => .frameRsvd11 f
  | 12 => .frameRsvd12 f
  | 13 => .frameRsvd13 f
  | 14 => .frameRsvd14 f
  | _ => .frameRsvd15 f

/-- The opcode and the operands of a frame row; none for a command. -/
def Instr.frame? (i : Instr) : Option (Opcode × WireFrame) :=
  match i with
  | .openSess => none
  | .closeSess => none
  | .encode _ _ _ _ _ => none
  | .append _ => none
  | .decode => none
  | .recv => none
  | .consume _ => none
  | .status => none
  | .frameContinuation f => some (0, f)
  | .frameText f => some (1, f)
  | .frameBinary f => some (2, f)
  | .frameRsvd3 f => some (3, f)
  | .frameRsvd4 f => some (4, f)
  | .frameRsvd5 f => some (5, f)
  | .frameRsvd6 f => some (6, f)
  | .frameRsvd7 f => some (7, f)
  | .frameClose f => some (8, f)
  | .framePing f => some (9, f)
  | .framePong f => some (10, f)
  | .frameRsvd11 f => some (11, f)
  | .frameRsvd12 f => some (12, f)
  | .frameRsvd13 f => some (13, f)
  | .frameRsvd14 f => some (14, f)
  | .frameRsvd15 f => some (15, f)

/-- The command tuple (CMD, DATA, KEY, N) the host presents on the command port (00_scope.md R19). KEY is held as the
word of 30_encoding.md R96. -/
structure Command where
  word : CmdWord
  data : List Byte
  key : KeyWord
  n : Count
deriving DecidableEq, Repr

/-- What an instruction is encoded as: a command on the host port, or the bytes of a wire frame
(00_scope.md R2: the two parts of the instruction set). -/
inductive Encoded where
  | command (c : Command)
  | wire (bytes : List Byte)
deriving DecidableEq, Repr

/-- What the frame decoder reports of a frame: `FRAME(fin, opc, masked, key, payload, consumed)` of 41_decode.md R170.
`form` is the length form it was written in, which the response does not carry (log entry 9). -/
structure DecodedFrame where
  fin : Bool
  opc : Opcode
  masked : Bool
  key : Option Key
  payload : List Byte
  consumed : Nat
  form : LenForm
deriving DecidableEq, Repr

/-- A byte operand in the written form of commands (30_encoding.md R111): a quoted string, a list of hex bytes, `k`
copies of one byte, or two of these joined by `+`. -/
inductive ByteExpr where
  | text (chars : List Char)
  | hex (bytes : List Byte)
  | copies (b : Byte) (k : Nat)
  | join (l r : ByteExpr)
deriving DecidableEq, Repr

/-- One line of the written form: the commands of 30_encoding.md R111 and the pseudo-instructions of R112. A key `-` is
`none`. -/
inductive AsmLine where
  | openSess
  | closeSess
  | status
  | decode
  | recv
  | encode (fin : Bool) (opc : Opcode) (msk : Bool) (key : Option KeyWord) (bytes : ByteExpr)
  | append (bytes : ByteExpr)
  | consume (n : Count)
  | encCont (key : Option KeyWord) (bytes : ByteExpr)
  | encText (key : Option KeyWord) (bytes : ByteExpr)
  | encBin (key : Option KeyWord) (bytes : ByteExpr)
  | encClose (key : Option KeyWord) (bytes : ByteExpr)
  | encPing (key : Option KeyWord) (bytes : ByteExpr)
  | encPong (key : Option KeyWord) (bytes : ByteExpr)
  | encFrag (opc : Opcode) (key : Option KeyWord) (bytes : ByteExpr)
  | reopen
deriving DecidableEq, Repr

end Sys2Proof
end

