-- ==== Sys2Proof/WellFormed.lean ====
section
/-! DEFINITION. Which instructions and written lines are well formed. -/

namespace Sys2Proof

/-- The first payload length a form cannot hold (30_encoding.md R103): LEN7 holds 0 to 125, LEN16 two bytes, LEN64
eight. -/
def LenForm.bound : LenForm → Nat
  | .len7 => 126
  | .len16 => 2 ^ 16
  | .len64 => 2 ^ 64

/-- A wire frame is well formed when its length form can hold its payload's length. A longer form than needed is well
formed (30_encoding.md R106). -/
def WireFrame.wf (f : WireFrame) : Bool := decide (f.payload.length < f.form.bound)

/-- Every command is well formed whatever its operands: 40_encode.md R141 gives a payload that no length field can hold
a status of its own. A frame row is well formed when its frame is. -/
def Instr.wf (i : Instr) : Bool :=
  match i.frame? with
  | none => true
  | some (_, f) => f.wf

/-- A quoted string holds printable ASCII characters only (30_encoding.md R111). -/
def ByteExpr.wf : ByteExpr → Bool
  | .text chars => chars.all fun c => decide (0x20 ≤ c.toNat) && decide (c.toNat ≤ 0x7E)
  | .hex _ => true
  | .copies _ _ => true
  | .join l r => l.wf && r.wf

/-- A written line is well formed when its byte operand is. -/
def AsmLine.wf : AsmLine → Bool
  | .openSess => true
  | .closeSess => true
  | .status => true
  | .decode => true
  | .recv => true
  | .encode _ _ _ _ d => d.wf
  | .append d => d.wf
  | .consume _ => true
  | .encCont _ d => d.wf
  | .encText _ d => d.wf
  | .encBin _ d => d.wf
  | .encClose _ d => d.wf
  | .encPing _ d => d.wf
  | .encPong _ d => d.wf
  | .encFrag _ _ d => d.wf
  | .reopen => true

end Sys2Proof
end

