-- ==== Sys2Proof/Decode.lean ====
section
/-! DEFINITION. The two decoders and the encoder: byte order and masking, the frame decoder of spec/41_decode.md, the
command-word decoder of spec/30_encoding.md, the encoder of both, and the assembler of the written form. -/

namespace Sys2Proof

/-! ## Bytes -/

/-- The byte at an offset; none at an offset that does not exist (20_memory.md R60). -/
def memByte (buf : List Byte) (off : Nat) : Option Byte := buf[off]?

/-- `MemRead(RX, off, n)`: defined only when `off + n ≤ |RXBUF|` (00_scope.md R16, 20_memory.md R62). -/
def memRead (buf : List Byte) (off n : Nat) : Option (List Byte) :=
  if off + n ≤ buf.length then some ((buf.drop off).take n) else none

/-- The value of a byte sequence read big-endian (00_scope.md R15). -/
def beNat (bs : List Byte) : Nat := bs.foldl (fun acc b => acc * 2 ^ 8 + b.toNat) 0

/-- The `n` big-endian bytes of a value (00_scope.md R15). -/
def beBytes : Nat → Nat → List Byte
  | 0, _ => []
  | n + 1, v => BitVec.ofNat 8 (v / 2 ^ (8 * n)) :: beBytes n v

/-- `u16be(s, o)` (00_scope.md R15). -/
def u16be (buf : List Byte) (off : Nat) : Option Nat := (memRead buf off 2).map beNat

/-- `u64be(s, o)` (00_scope.md R15). -/
def u64be (buf : List Byte) (off : Nat) : Option Nat := (memRead buf off 8).map beNat

/-- The key bytes in wire order (20_memory.md R65). -/
def Key.bytes (k : Key) : List Byte := [k.k0, k.k1, k.k2, k.k3]

/-- `mask[i mod 4]` (40_encode.md R146). -/
def Key.byteAt (k : Key) (i : Nat) : Byte :=
  match i % 4 with
  | 0 => k.k0
  | 1 => k.k1
  | 2 => k.k2
  | _ => k.k3

/-- The masking transform from index `i` on (40_encode.md R146). -/
def maskFrom (k : Key) (i : Nat) : List Byte → List Byte
  | [] => []
  | b :: rest => (b ^^^ k.byteAt i) :: maskFrom k (i + 1) rest

/-- `maskx(mask, s)`: each byte XORed against `mask[i mod 4]`, `i` counting from 0 (40_encode.md R146). -/
def maskx (k : Key) (s : List Byte) : List Byte := maskFrom k 0 s

/-- Four key bytes read at an offset. -/
def memKey (buf : List Byte) (off : Nat) : Option Key :=
  match memRead buf off 4 with
  | some [a, b, c, d] => some ⟨a, b, c, d⟩
  | _ => none

/-! ## The fields of a frame header -/

/-- Byte 0 from FIN and the opcode, the RSV bits 0 (30_encoding.md R101, 40_encode.md R142). -/
def byte0 (fin : Bool) (opc : Opcode) : Byte := BitVec.ofBool fin ++ 0#3 ++ opc

/-- Byte 1 from MASK and LEN7 (30_encoding.md R102, 40_encode.md R145). -/
def byte1 (masked : Bool) (ind : BitVec 7) : Byte := BitVec.ofBool masked ++ ind

/-- Byte 0 bit 7 (30_encoding.md R101). -/
def finOf (b0 : Byte) : Bool := b0.getLsbD 7

/-- Byte 0 bits 6:4, RSV1 to RSV3 (30_encoding.md R101). -/
def rsvOf (b0 : Byte) : BitVec 3 := b0.extractLsb' 4 3

/-- Byte 0 bits 3:0 (30_encoding.md R101). -/
def opcOf (b0 : Byte) : Opcode := b0.extractLsb' 0 4

/-- Byte 1 bit 7 (30_encoding.md R102). -/
def maskedOf (b1 : Byte) : Bool := b1.getLsbD 7

/-- Byte 1 bits 6:0, LEN7 (30_encoding.md R102). -/
def indOf (b1 : Byte) : BitVec 7 := b1.extractLsb' 0 7

/-- The length form a LEN7 value announces (30_encoding.md R103). -/
def formOf (ind : BitVec 7) : LenForm :=
  if ind = 126 then .len16 else if ind = 127 then .len64 else .len7

/-- The header length `hlen` (30_encoding.md R104, 41_decode.md R174). -/
def LenForm.hlen : LenForm → Nat
  | .len7 => 2
  | .len16 => 4
  | .len64 => 10

/-- The bytes of the masking key in a frame: `4*m` (30_encoding.md R104). -/
def keyLen (masked : Bool) : Nat := if masked then 4 else 0

/-- The payload length LEN from the header (30_encoding.md R105, 41_decode.md R175). -/
def payloadLenOf (buf : List Byte) (ind : BitVec 7) : Option Nat :=
  match formOf ind with
  | .len7 => some ind.toNat
  | .len16 => u16be buf 2
  | .len64 => u64be buf 2

/-- The shortest form that holds a length (30_encoding.md R106, 40_encode.md R143). -/
def shortestForm (len : Nat) : LenForm :=
  if len < 126 then .len7 else if len ≤ 65535 then .len16 else .len64

/-- The indicator `ind` for a length written in a form (30_encoding.md R103, 40_encode.md R143). -/
def lenIndicator (form : LenForm) (len : Nat) : BitVec 7 :=
  match form with
  | .len7 => BitVec.ofNat 7 len
  | .len16 => 126
  | .len64 => 127

/-- The extended length bytes `ext` (30_encoding.md R103, 40_encode.md R144). -/
def extBytes (form : LenForm) (len : Nat) : List Byte :=
  match form with
  | .len7 => []
  | .len16 => beBytes 2 len
  | .len64 => beBytes 8 len

/-- The key and the payload as they stand on the wire (30_encoding.md R100, 40_encode.md R147). -/
def frameBody (key : Option Key) (payload : List Byte) : List Byte :=
  match key with
  | none => payload
  | some k => k.bytes ++ maskx k payload

/-- The bytes of a frame: byte 0, byte 1, extended length, key, payload (30_encoding.md R100). -/
def frameBytes (fin : Bool) (opc : Opcode) (form : LenForm) (key : Option Key) (payload : List Byte) : List Byte :=
  [byte0 fin opc, byte1 key.isSome (lenIndicator form payload.length)] ++ extBytes form payload.length
    ++ frameBody key payload

/-- The number of bytes a frame occupies, `total_needed` (30_encoding.md R104). -/
def WireFrame.total (f : WireFrame) : Nat := f.form.hlen + keyLen f.key.isSome + f.payload.length

/-! ## The frame decoder -/

/-- The cause of a protocol error (10_state.md R35). -/
inductive ProtoCause where
  | rsvNonzero
  | lenOverCap
deriving DecidableEq, Repr

/-- The outcomes of `decodeFrame` (41_decode.md R170). `badRead` says that a step read a byte that is not there, which
20_memory.md R62 excludes (log entry 8). -/
inductive FrameOutcome where
  | frame (d : DecodedFrame)
  | needMore
  | perror (c : ProtoCause)
  | badRead
deriving DecidableEq, Repr

/-- `len > MAX_PAYLOAD_LEN` (41_decode.md R176). A length up to 65536 is within every legal cap (00_scope.md R9), so it
is not compared with the parameter, and a run on such lengths can be evaluated. -/
def overCap (maxLen len : Nat) : Bool := decide (65536 < len) && decide (maxLen < len)

/-- Go on with a value read, or report that the read was not defined. -/
def withRead {α : Type} (read : Option α) (k : α → FrameOutcome) : FrameOutcome :=
  match read with
  | some a => k a
  | none => .badRead

/-- `payload_start` (30_encoding.md R104, 41_decode.md R177). -/
def payloadStart (hlen : Nat) (b1 : Byte) : Nat := hlen + keyLen (maskedOf b1)

/-- Steps 6 to 8 of `decodeFrame`, with the header bytes and the length known (41_decode.md R177, R178, R179). -/
def decodePayload (buf : List Byte) (b0 b1 : Byte) (hlen len : Nat) : FrameOutcome :=
  if buf.length < payloadStart hlen b1 + len then .needMore
  else
    withRead (memRead buf (payloadStart hlen b1) len) fun body =>
      if maskedOf b1 then
        withRead (memKey buf hlen) fun k =>
          .frame ⟨finOf b0, opcOf b0, true, some k, maskx k body, payloadStart hlen b1 + len, formOf (indOf b1)⟩
      else .frame ⟨finOf b0, opcOf b0, false, none, body, payloadStart hlen b1 + len, formOf (indOf b1)⟩

/-- Steps 4 and 5 of `decodeFrame` and the cap check after them (41_decode.md R174, R175, R176). -/
def decodeLength (maxLen : Nat) (buf : List Byte) (b0 b1 : Byte) : FrameOutcome :=
  if buf.length < (formOf (indOf b1)).hlen then .needMore
  else
    withRead (payloadLenOf buf (indOf b1)) fun len =>
      if overCap maxLen len then .perror .lenOverCap
      else decodePayload buf b0 b1 (formOf (indOf b1)).hlen len

/-- `decodeFrame(buf)`: steps 1 to 3, then the rest, in order (41_decode.md R170 to R173). MAX_PAYLOAD_LEN is an
argument (41_decode.md R180). -/
def decodeFrame (maxLen : Nat) (buf : List Byte) : FrameOutcome :=
  if buf.length < 2 then .needMore
  else
    withRead (memByte buf 0) fun b0 =>
      withRead (memByte buf 1) fun b1 =>
        if rsvOf b0 ≠ 0 then .perror .rsvNonzero else decodeLength maxLen buf b0 b1

/-! ## Instructions from their encodings -/

/-- Why a command word or a run of wire bytes is no instruction. -/
inductive DecodeError where
  /-- CMDOP 0x0 or 0x9 to 0xF (30_encoding.md R110). -/
  | reservedCmdop
  /-- A reserved bit of a command word is 1 (30_encoding.md R92, R93, R110). -/
  | reservedBits
  /-- The wire bytes end inside a frame (41_decode.md R171, R174, R177). -/
  | truncated
  /-- An RSV bit of byte 0 is 1 (30_encoding.md R108). -/
  | rsvNonzero
  /-- The length is over the cap; not answered by `decodeWire`, whose cap is the largest 64-bit length. -/
  | lenOverCap
  /-- An undefined read; not answered (20_memory.md R62). -/
  | badRead
deriving DecidableEq, Repr

/-- The commands by their rows of 30_encoding.md R94. -/
inductive CmdOp where
  | openSess
  | closeSess
  | encode
  | append
  | decode
  | recv
  | consume
  | status
deriving DecidableEq, Repr

/-- A row of the command map: a word selects it when `(word AND mask) = value` (30_encoding.md R94). -/
structure CmdRow where
  op : CmdOp
  value : CmdWord
  mask : CmdWord
deriving DecidableEq, Repr

/-- The command map (30_encoding.md R94). -/
def commandTable : List CmdRow :=
  [⟨.openSess, 0x10000000, 0xFFFFFFFF⟩, ⟨.closeSess, 0x20000000, 0xFFFFFFFF⟩, ⟨.encode, 0x30000000, 0xF10FFFFF⟩,
   ⟨.append, 0x40000000, 0xFFFFFFFF⟩, ⟨.decode, 0x50000000, 0xFFFFFFFF⟩, ⟨.recv, 0x60000000, 0xFFFFFFFF⟩,
   ⟨.consume, 0x70000000, 0xFFFFFFFF⟩, ⟨.status, 0x80000000, 0xFFFFFFFF⟩]

/-- Whether a word selects a row (30_encoding.md R94). -/
def CmdRow.selects (r : CmdRow) (w : CmdWord) : Bool := decide (w &&& r.mask = r.value)

/-- CMDOP, bits 31:28 (30_encoding.md R91). -/
def cmdopOf (w : CmdWord) : BitVec 4 := w.extractLsb' 28 4

/-- The instruction of a selected row, with the operands it reads (30_encoding.md R90, R92). -/
def CmdOp.instr (op : CmdOp) (c : Command) : Instr :=
  match op with
  | .openSess => .openSess
  | .closeSess => .closeSess
  | .encode =>
    .encode (c.word.getLsbD 27) (c.word.extractLsb' 20 4) (c.word.getLsbD 26)
      (if c.word.getLsbD 25 then some c.key else none) c.data
  | .append => .append c.data
  | .decode => .decode
  | .recv => .recv
  | .consume => .consume c.n
  | .status => .status

/-- The command decoder, total on every word (30_encoding.md R95). -/
def decodeCommand (c : Command) : Except DecodeError Instr :=
  match commandTable.find? fun r => r.selects c.word with
  | some r => .ok (r.op.instr c)
  | none =>
    .error (if commandTable.any fun r => decide (cmdopOf r.value = cmdopOf c.word) then .reservedBits
      else .reservedCmdop)

/-- The wire decoder, total on any bytes: the frame that stands first, as the instruction of its row, and the bytes
after it. It reads the format of 30_encoding.md R100 only, so its cap is the largest 64-bit length. -/
def decodeWire (bytes : List Byte) : Except DecodeError (Instr × List Byte) :=
  match decodeFrame (2 ^ 64 - 1) bytes with
  | .frame d => .ok (frameInstr d.opc ⟨d.fin, d.form, d.key, d.payload⟩, bytes.drop d.consumed)
  | .needMore => .error .truncated
  | .perror .rsvNonzero => .error .rsvNonzero
  | .perror .lenOverCap => .error .lenOverCap
  | .badRead => .error .badRead

/-! ## The encoder -/

/-- The ENCODE command word (30_encoding.md R92). -/
def encodeWord (fin msk mkv : Bool) (opc : Opcode) : CmdWord :=
  3#4 ++ BitVec.ofBool fin ++ BitVec.ofBool msk ++ BitVec.ofBool mkv ++ 0#1 ++ opc ++ 0#20

/-- A command whose operands are those named; the others are 0 or empty (30_encoding.md R111). -/
def plainCommand (word : CmdWord) : Command := ⟨word, [], 0, 0⟩

/-- The bytes of a frame row (30_encoding.md R100). -/
def encodeFrame (opc : Opcode) (f : WireFrame) : Encoded := .wire (frameBytes f.fin opc f.form f.key f.payload)

/-- The encoding of an instruction: its command word and operands (30_encoding.md R94, R111) or the bytes of its frame
(R100). -/
def encode (i : Instr) : Encoded :=
  match i with
  | .openSess => .command (plainCommand 0x10000000)
  | .closeSess => .command (plainCommand 0x20000000)
  | .encode fin opc msk key data => .command ⟨encodeWord fin msk key.isSome opc, data, key.getD 0, 0⟩
  | .append data => .command ⟨0x40000000, data, 0, 0⟩
  | .decode => .command (plainCommand 0x50000000)
  | .recv => .command (plainCommand 0x60000000)
  | .consume n => .command ⟨0x70000000, [], 0, n⟩
  | .status => .command (plainCommand 0x80000000)
  | .frameContinuation f => encodeFrame 0 f
  | .frameText f => encodeFrame 1 f
  | .frameBinary f => encodeFrame 2 f
  | .frameRsvd3 f => encodeFrame 3 f
  | .frameRsvd4 f => encodeFrame 4 f
  | .frameRsvd5 f => encodeFrame 5 f
  | .frameRsvd6 f => encodeFrame 6 f
  | .frameRsvd7 f => encodeFrame 7 f
  | .frameClose f => encodeFrame 8 f
  | .framePing f => encodeFrame 9 f
  | .framePong f => encodeFrame 10 f
  | .frameRsvd11 f => encodeFrame 11 f
  | .frameRsvd12 f => encodeFrame 12 f
  | .frameRsvd13 f => encodeFrame 13 f
  | .frameRsvd14 f => encodeFrame 14 f
  | .frameRsvd15 f => encodeFrame 15 f

/-! ## A table word -/

/-- The wire bytes of a FRAME row's word: byte 0 as given and byte 1 zero, which ends the frame
(30_encoding.md R104: LEN7 = 0 and MASK = 0 make it two bytes long; log entry 10). -/
def tableWireBytes (w : Nat) : List Byte := [BitVec.ofNat 8 w, 0]

/-- The instruction that a word of the opcode table stands for: 32 bits are a command word with empty operands, 8 bits
are byte 0 of a frame whose other bits are 0. No row has another width. -/
def decodeTableWord (nbits w : Nat) : Option Instr :=
  if nbits = 32 then (decodeCommand (plainCommand (BitVec.ofNat 32 w))).toOption
  else if nbits = 8 then (decodeWire (tableWireBytes w)).toOption.map Prod.fst
  else none

/-! ## The written form -/

/-- The bytes a byte operand denotes (30_encoding.md R111); a character is the byte of its ASCII code. -/
def ByteExpr.bytes : ByteExpr → List Byte
  | .text chars => chars.map fun c => BitVec.ofNat 8 c.toNat
  | .hex bytes => bytes
  | .copies b k => List.replicate k b
  | .join l r => l.bytes ++ r.bytes

/-- An ENCODE pseudo-instruction: `m` is 1 exactly when a key is written (30_encoding.md R112). -/
def encodePseudo (fin : Bool) (opc : Opcode) (key : Option KeyWord) (d : ByteExpr) : List Instr :=
  [.encode fin opc key.isSome key d.bytes]

/-- The instructions a written line stands for (30_encoding.md R111, R112). -/
def AsmLine.assemble : AsmLine → List Instr
  | .openSess => [.openSess]
  | .closeSess => [.closeSess]
  | .status => [.status]
  | .decode => [.decode]
  | .recv => [.recv]
  | .encode fin opc msk key d => [.encode fin opc msk key d.bytes]
  | .append d => [.append d.bytes]
  | .consume n => [.consume n]
  | .encCont key d => encodePseudo true 0 key d
  | .encText key d => encodePseudo true 1 key d
  | .encBin key d => encodePseudo true 2 key d
  | .encClose key d => encodePseudo true 8 key d
  | .encPing key d => encodePseudo true 9 key d
  | .encPong key d => encodePseudo true 10 key d
  | .encFrag opc key d => encodePseudo false opc key d
  | .reopen => [.closeSess, .openSess]

end Sys2Proof
end

