-- ==== Sys2Proof/Machine/State.lean ====
section
/-! DEFINITION. The state of the block, the responses it returns, the inputs it takes, and the reasons it stops. -/

namespace Sys2Proof.Machine

/-- SESS: CLOSED (0) or OPEN (1) (10_state.md R31). -/
inductive Session where
  | closed
  | opened
deriving DecidableEq, Repr

/-- The status of a command (60_exceptions.md R281). -/
inductive Status where
  | ok
  | needMore
  | protocolError
  | inputError
  | notOpen
  | overflow
  | illegalCmd
  | stateError
deriving DecidableEq, Repr

/-- The fields of a response that only some outcomes define (10_state.md R41). A field an outcome does not define holds
no value, which is `none` and not 0 (00_scope.md R17). -/
structure ResponseFields where
  out : Option (List Byte) := none
  fin : Option Bool := none
  opc : Option Opcode := none
  masked : Option Bool := none
  key : Option Key := none
  len : Option Nat := none
  consumed : Option Nat := none
  count : Option Nat := none
deriving DecidableEq, Repr

/-- The response record (10_state.md R41): the fields always present and those only some outcomes define. `state` is
the STATE word and `rxlen` the buffer's length, both after the command. -/
structure Response extends ResponseFields where
  status : Status
  cause : BitVec 2
  state : BitVec 32
  rxlen : Nat
deriving DecidableEq, Repr

/-- An input of the block: a command on the command port, or the reset event (00_scope.md R19,
70_reset_and_hazards.md R330). -/
inductive HostInput where
  | command (c : Command)
  | reset
deriving DecidableEq, Repr

/-- The state of the machine. The block's own state is `(SESS, RXBUF, PERR, PCAUSE)` (10_state.md R30). `port` holds
what the host issues next, oldest first, and `responses` what the block has answered, oldest first: the two ports of
00_scope.md R19, which are the model's own fields (log entries 2 and 3). -/
structure State where
  sess : Session
  rxbuf : List Byte
  perr : Bool
  pcause : BitVec 2
  port : List HostInput
  responses : List Response
deriving DecidableEq, Repr

/-- Why the machine stops with a fault. -/
inductive Fault where
  /-- Raised by DECODE and RECV if the frame decoder reads an offset at or beyond |RXBUF|. 20_memory.md R62 says it
  never does, so no step raises it. Safe: it stops the model where the spec says nothing is read (log entry 8). -/
  | readBeyondRxbuf
deriving DecidableEq, Repr

/-- Why an instruction has no meaning. -/
inductive Refusal where
  /-- Raised by `exec` for an instruction that has no meaning yet; no arm raises it. Safe: the model stops. -/
  | notModelled (mnemonic : String)
deriving DecidableEq, Repr

/-- The machine right after reset (10_state.md R43): CLOSED, an empty buffer, no latched error. Nothing has been issued
or answered (DESIGN CHOICE, log entries 2 and 3). -/
def State.reset : State :=
  { sess := .closed, rxbuf := [], perr := false, pcause := 0, port := [], responses := [] }

end Sys2Proof.Machine
end

