-- ==== Sys2Proof/Machine/Flags.lean ====
section
/-! DEFINITION. Codes and flags: the status and cause codes, the STATE word, and the protocol-error latch. -/

namespace Sys2Proof.Machine

/-- What an operation answers. -/
abbrev Result := Host.Outcome State Fault Refusal

/-- The 4-bit status code (60_exceptions.md R281). -/
def Status.code : Status → BitVec 4
  | .ok => 0
  | .needMore => 1
  | .protocolError => 2
  | .inputError => 3
  | .notOpen => 4
  | .overflow => 5
  | .illegalCmd => 6
  | .stateError => 7

/-- The cause of an input error (60_exceptions.md R282). -/
inductive InputCause where
  | maskMissing
  | lenTooLarge
deriving DecidableEq, Repr

/-- The 2-bit cause code of a protocol error, which PCAUSE holds (10_state.md R35, 60_exceptions.md R282). -/
def protoCode (c : ProtoCause) : BitVec 2 :=
  match c with
  | .rsvNonzero => 1
  | .lenOverCap => 2

/-- The 2-bit cause code of an input error (60_exceptions.md R282). -/
def inputCode (c : InputCause) : BitVec 2 :=
  match c with
  | .maskMissing => 1
  | .lenTooLarge => 2

/-- The SESS bit (10_state.md R31). -/
def sessBit (x : Session) : Bool :=
  match x with
  | .closed => false
  | .opened => true

/-- The STATE word: bit 0 SESS, bit 1 PERR, bits 3:2 PCAUSE, the rest 0 (10_state.md R37). -/
def stateWord (s : State) : BitVec 32 := 0#28 ++ s.pcause ++ BitVec.ofBool s.perr ++ BitVec.ofBool (sessBit s.sess)

/-- PERR and PCAUSE written together (10_state.md R34, R35). -/
def setLatch (c : ProtoCause) (s : State) : State := { s with perr := true, pcause := protoCode c }

/-- The block's state as reset, OPEN and CLOSE leave it but for SESS: an empty buffer and a clear latch
(10_state.md R43, 43_session.md R250, R251). -/
def clearBlock (x : Session) (s : State) : State := { s with sess := x, rxbuf := [], perr := false, pcause := 0 }

end Sys2Proof.Machine
end

