-- ==== Sys2Proof/Machine/Operands.lean ====
section
/-! DEFINITION. The operand forms: the KEY word, the masking operand of ENCODE, and N. -/

namespace Sys2Proof.Machine

/-- The key bytes of the KEY word: `mask[0] = KEY[31:24]` to `mask[3] = KEY[7:0]` (30_encoding.md R96). -/
def keyOfWord (w : KeyWord) : Key :=
  ⟨w.extractLsb' 24 8, w.extractLsb' 16 8, w.extractLsb' 8 8, w.extractLsb' 0 8⟩

/-- What ENCODE masks with: nothing when MSK = 0, whatever MKV and KEY are; the key when MSK = 1 and one is supplied; an
input error when MSK = 1 and none is (40_encode.md R141). -/
def maskOperand (msk : Bool) (key : Option KeyWord) : Except InputCause (Option Key) :=
  match msk, key with
  | false, _ => .ok none
  | true, some w => .ok (some (keyOfWord w))
  | true, none => .error .maskMissing

/-- The number of bytes CONSUME removes: `min(N, |RXBUF|)` (42_buffer.md R222). -/
def consumeCount (n : Count) (buf : List Byte) : Nat := min n.toNat buf.length

end Sys2Proof.Machine
end

