-- ==== Sys2Proof/Machine/Ops.lean ====
section
/-! DEFINITION. The shared operations: the receive buffer, the response, the session and latch checks, ending a command
with an error, and the delivery of a frame (spec/00_scope.md R16, 60_exceptions.md R280 to R287). -/

namespace Sys2Proof.Machine

/-! ## The receive buffer -/

/-- Whether a capacity admits a number of bytes (10_state.md R32). -/
def admits (cap : Capacity) (n : Nat) : Bool :=
  match cap with
  | .finite c => decide (n ≤ c)
  | .inf => true

/-- Whether RXBUF may hold `n` bytes. Every legal capacity admits 65550 (00_scope.md R9: MAX_PAYLOAD_LEN + 14 with
MAX_PAYLOAD_LEN at least 65536), so up to there the parameter is not read, and a run on such lengths can be
evaluated. -/
def rxbufFits (n : Nat) : Bool := decide (n ≤ 65550) || admits Config.rxbufCap n

/-- FREE, the bytes APPEND can still accept (10_state.md R33). -/
def freeBytes (cap : Capacity) (s : State) : Capacity :=
  match cap with
  | .finite c => .finite (c - s.rxbuf.length)
  | .inf => .inf

/-- `RxAppend(s)` (00_scope.md R16). -/
def rxAppend (bytes : List Byte) (s : State) : State := { s with rxbuf := s.rxbuf ++ bytes }

/-- `RxDrop(k)` (00_scope.md R16). -/
def rxDrop (k : Nat) (s : State) : State := { s with rxbuf := s.rxbuf.drop k }

/-- RXBUF is within its capacity, the only form its byte list must keep (20_memory.md R71, log entry 5). -/
def Memory.wf (s : State) : Bool := rxbufFits s.rxbuf.length

/-- RXBUF as address and byte pairs: offset `i` holds byte `i`, and no other address exists (20_memory.md R60, R61). -/
def Memory.cells (s : State) : List Host.Cell := s.rxbuf.zipIdx.map fun p => (p.2, p.1)

/-! ## Ending a command -/

/-- The response record of a command that ends with this state (10_state.md R41). -/
def responseOf (status : Status) (cause : BitVec 2) (fields : ResponseFields) (s : State) : Response :=
  { fields with status := status, cause := cause, state := stateWord s, rxlen := s.rxbuf.length }

/-- The state with one more response returned (10_state.md R41). -/
def reply (status : Status) (cause : BitVec 2) (fields : ResponseFields) (s : State) : State :=
  { s with responses := s.responses ++ [responseOf status cause fields s] }

/-- `respond(status, cause, fields...)`: end the command (00_scope.md R16). -/
def respond (status : Status) (cause : BitVec 2) (fields : ResponseFields) (s : State) : Result :=
  .next (reply status cause fields s)

/-- `raise <Status>(cause)`: end the command with an error and no state written. This is all that an error does: nothing
is saved, no vector is taken and the next command executes normally (00_scope.md R16, 60_exceptions.md R280). -/
def raise (status : Status) (cause : BitVec 2) (s : State) : Result := respond status cause {} s

/-- A new protocol error: the latch is set, then the command ends (41_decode.md R188). -/
def raiseProtocol (c : ProtoCause) (s : State) : Result := raise .protocolError (protoCode c) (setLatch c s)

/-- The session check of CLOSE, APPEND, DECODE, RECV and CONSUME (60_exceptions.md R285 point 2). -/
def whenOpen (s : State) (k : Result) : Result :=
  match s.sess with
  | .closed => raise .notOpen 0 s
  | .opened => k

/-- The latch check of DECODE, RECV and CONSUME (60_exceptions.md R285 point 3, R286). -/
def whenUnlatched (s : State) (k : Result) : Result :=
  match s.perr with
  | true => raise .protocolError s.pcause s
  | false => k

/-! ## Frames -/

/-- The response fields of a decoded frame (10_state.md R41, 41_decode.md R184). -/
def frameFields (d : DecodedFrame) : ResponseFields :=
  { out := some d.payload, fin := some d.fin, opc := some d.opc, masked := some d.masked, key := d.key,
    len := some d.payload.length, consumed := some d.consumed }

/-- One attempt to decode the frame at the front of RXBUF, shared by DECODE and RECV: the checks, then the outcome of
`decodeFrame`. `taken` says how many of a frame's bytes leave the buffer (41_decode.md R184, R186, R188). -/
def attemptFrame (maxLen : Nat) (taken : DecodedFrame → Nat) (s : State) : Result :=
  whenOpen s <| whenUnlatched s <|
    match decodeFrame maxLen s.rxbuf with
    | .needMore => respond .needMore 0 {} s
    | .perror c => raiseProtocol c s
    | .frame d => respond .ok 0 (frameFields d) (rxDrop (taken d) s)
    | .badRead => .fault .readBeyondRxbuf

/-- What the frame decoder reports of a wire frame of this opcode (41_decode.md R179). -/
def decodedOf (opc : Opcode) (f : WireFrame) : DecodedFrame :=
  ⟨f.fin, opc, f.key.isSome, f.key, f.payload, f.total, f.form⟩

/-- Receiving a wire frame that stands at the front of RXBUF: RECV's checks, the cap check, then its bytes leave the
buffer and it is returned. Every opcode is treated alike (41_decode.md R176, R179, R186, 30_encoding.md R107; log
entry 6). -/
def receiveFrame (maxLen : Nat) (opc : Opcode) (f : WireFrame) (s : State) : Result :=
  whenOpen s <| whenUnlatched s <|
    if overCap maxLen f.payload.length then raiseProtocol .lenOverCap s
    else respond .ok 0 (frameFields (decodedOf opc f)) (rxDrop f.total s)

/-! ## Inputs -/

/-- The next input of the host and the state once it is taken from the port (00_scope.md R7, R8, 20_memory.md R74). -/
def nextInput (s : State) : Option (HostInput × State) :=
  match s.port with
  | [] => none
  | x :: rest => some (x, { s with port := rest })

end Sys2Proof.Machine
end

