-- ==== Sys2Proof/Machine/Buffer.lean ====
section
/-! DEFINITION. APPEND and CONSUME (spec/42_buffer.md). -/

namespace Sys2Proof.Machine

/-- APPEND once it is known whether the bytes fit: all of them are added, or none (42_buffer.md R220). -/
def appendChecked (fits : Bool) (data : List Byte) (s : State) : Result :=
  whenOpen s <| if fits then respond .ok 0 {} (rxAppend data s) else raise .overflow 0 s

/-- APPEND (42_buffer.md R220). -/
def execAppend (data : List Byte) (s : State) : Result :=
  appendChecked (rxbufFits (s.rxbuf.length + data.length)) data s

/-- CONSUME (42_buffer.md R222). -/
def execConsume (n : Count) (s : State) : Result :=
  whenOpen s <| whenUnlatched s <|
    respond .ok 0 { count := some (consumeCount n s.rxbuf) } (rxDrop (consumeCount n s.rxbuf) s)

end Sys2Proof.Machine
end

