-- ==== Sys2Proof/Machine/Decoder.lean ====
section
/-! DEFINITION. DECODE and RECV (spec/41_decode.md). -/

namespace Sys2Proof.Machine

/-- DECODE: no byte of the frame leaves the buffer (41_decode.md R184). -/
def execDecode (s : State) : Result := attemptFrame Config.maxPayloadLen (fun _ => 0) s

/-- RECV: the bytes of the frame leave the buffer (41_decode.md R186). -/
def execRecv (s : State) : Result := attemptFrame Config.maxPayloadLen (fun d => d.consumed) s

end Sys2Proof.Machine
end

