-- ==== Sys2Proof/Machine/Encoder.lean ====
section
/-! DEFINITION. ENCODE (spec/40_encode.md). -/

namespace Sys2Proof.Machine

/-- ENCODE once its mask is settled: the length check, then the frame in its shortest form (40_encode.md R140 to
R147). -/
def encodeMasked (fin : Bool) (opc : Opcode) (mask : Option Key) (data : List Byte) (s : State) : Result :=
  if 2 ^ 64 ≤ data.length then raise .inputError (inputCode .lenTooLarge) s
  else respond .ok 0 { out := some (frameBytes fin opc (shortestForm data.length) mask data) } s

/-- ENCODE: the mask check first, then the rest (40_encode.md R140, R141). -/
def execEncode (fin : Bool) (opc : Opcode) (msk : Bool) (key : Option KeyWord) (data : List Byte) (s : State) :
    Result :=
  match maskOperand msk key with
  | .error c => raise .inputError (inputCode c) s
  | .ok mask => encodeMasked fin opc mask data s

end Sys2Proof.Machine
end

