-- ==== Sys2Proof/Machine/Frames.lean ====
section
/-! DEFINITION. The wire frames, one meaning for each opcode row (spec/30_encoding.md R107): what RECV does when such a
frame stands at the front of RXBUF. The block treats every opcode alike, so each is one line over `receiveFrame`
(log entry 6). -/

namespace Sys2Proof.Machine

/-- FRAME.CONTINUATION, opcode 0, recognized. -/
def execFrameContinuation (f : WireFrame) (s : State) : Result := receiveFrame Config.maxPayloadLen 0 f s

/-- FRAME.TEXT, opcode 1, recognized. -/
def execFrameText (f : WireFrame) (s : State) : Result := receiveFrame Config.maxPayloadLen 1 f s

/-- FRAME.BINARY, opcode 2, recognized. -/
def execFrameBinary (f : WireFrame) (s : State) : Result := receiveFrame Config.maxPayloadLen 2 f s

/-- FRAME.RSVD3, opcode 3, reserved, round-trips opaquely. -/
def execFrameRsvd3 (f : WireFrame) (s : State) : Result := receiveFrame Config.maxPayloadLen 3 f s

/-- FRAME.RSVD4, opcode 4, reserved, round-trips opaquely. -/
def execFrameRsvd4 (f : WireFrame) (s : State) : Result := receiveFrame Config.maxPayloadLen 4 f s

/-- FRAME.RSVD5, opcode 5, reserved, round-trips opaquely. -/
def execFrameRsvd5 (f : WireFrame) (s : State) : Result := receiveFrame Config.maxPayloadLen 5 f s

/-- FRAME.RSVD6, opcode 6, reserved, round-trips opaquely. -/
def execFrameRsvd6 (f : WireFrame) (s : State) : Result := receiveFrame Config.maxPayloadLen 6 f s

/-- FRAME.RSVD7, opcode 7, reserved, round-trips opaquely. -/
def execFrameRsvd7 (f : WireFrame) (s : State) : Result := receiveFrame Config.maxPayloadLen 7 f s

/-- FRAME.CLOSE, opcode 8, recognized. -/
def execFrameClose (f : WireFrame) (s : State) : Result := receiveFrame Config.maxPayloadLen 8 f s

/-- FRAME.PING, opcode 9, recognized. -/
def execFramePing (f : WireFrame) (s : State) : Result := receiveFrame Config.maxPayloadLen 9 f s

/-- FRAME.PONG, opcode 10, recognized. -/
def execFramePong (f : WireFrame) (s : State) : Result := receiveFrame Config.maxPayloadLen 10 f s

/-- FRAME.RSVD11, opcode 11, reserved, round-trips opaquely. -/
def execFrameRsvd11 (f : WireFrame) (s : State) : Result := receiveFrame Config.maxPayloadLen 11 f s

/-- FRAME.RSVD12, opcode 12, reserved, round-trips opaquely. -/
def execFrameRsvd12 (f : WireFrame) (s : State) : Result := receiveFrame Config.maxPayloadLen 12 f s

/-- FRAME.RSVD13, opcode 13, reserved, round-trips opaquely. -/
def execFrameRsvd13 (f : WireFrame) (s : State) : Result := receiveFrame Config.maxPayloadLen 13 f s

/-- FRAME.RSVD14, opcode 14, reserved, round-trips opaquely. -/
def execFrameRsvd14 (f : WireFrame) (s : State) : Result := receiveFrame Config.maxPayloadLen 14 f s

/-- FRAME.RSVD15, opcode 15, reserved, round-trips opaquely. -/
def execFrameRsvd15 (f : WireFrame) (s : State) : Result := receiveFrame Config.maxPayloadLen 15 f s

end Sys2Proof.Machine
end

