-- ==== Sys2Proof/Machine/Session.lean ====
section
/-! DEFINITION. OPEN, CLOSE, STATUS, illegal command words, the reset event, and a machine with nothing to do
(spec/43_session.md, spec/70_reset_and_hazards.md). -/

namespace Sys2Proof.Machine

/-- OPEN (43_session.md R250). -/
def execOpen (s : State) : Result :=
  match s.sess with
  | .opened => raise .stateError 0 s
  | .closed => respond .ok 0 {} (clearBlock .opened s)

/-- CLOSE (43_session.md R251). -/
def execClose (s : State) : Result := whenOpen s <| respond .ok 0 {} (clearBlock .closed s)

/-- STATUS (43_session.md R252). -/
def execStatus (s : State) : Result := respond .ok 0 {} s

/-- An illegal command word: ILLEGAL_CMD, cause 0, no state written, and the block goes on (43_session.md R253). -/
def execIllegal (s : State) : Result := raise .illegalCmd 0 s

/-- The reset event: every state element takes its reset value and no response is returned (70_reset_and_hazards.md
R330). What the host issues next and what it was answered are not the block's (log entry 11). -/
def resetEvent (s : State) : Result := .next (clearBlock .closed s)

/-- The host has issued nothing: nothing happens (70_reset_and_hazards.md R346, 00_scope.md R8; log entry 4). -/
def idle (s : State) : Result := .next s

end Sys2Proof.Machine
end

