-- ==== Sys2Proof/Machine/Dispatch.lean ====
section
/-! DEFINITION. One arm for each instruction: which meaning it has. -/

namespace Sys2Proof.Machine

/-- The meaning of an instruction. -/
def exec (i : Instr) (s : State) : Host.Outcome State Fault Refusal :=
  match i with
  | .openSess => Sys2Proof.Machine.execOpen s
  | .closeSess => Sys2Proof.Machine.execClose s
  | .encode fin opc msk key data => Sys2Proof.Machine.execEncode fin opc msk key data s
  | .append data => Sys2Proof.Machine.execAppend data s
  | .decode => Sys2Proof.Machine.execDecode s
  | .recv => Sys2Proof.Machine.execRecv s
  | .consume n => Sys2Proof.Machine.execConsume n s
  | .status => Sys2Proof.Machine.execStatus s
  | .frameContinuation f => Sys2Proof.Machine.execFrameContinuation f s
  | .frameText f => Sys2Proof.Machine.execFrameText f s
  | .frameBinary f => Sys2Proof.Machine.execFrameBinary f s
  | .frameRsvd3 f => Sys2Proof.Machine.execFrameRsvd3 f s
  | .frameRsvd4 f => Sys2Proof.Machine.execFrameRsvd4 f s
  | .frameRsvd5 f => Sys2Proof.Machine.execFrameRsvd5 f s
  | .frameRsvd6 f => Sys2Proof.Machine.execFrameRsvd6 f s
  | .frameRsvd7 f => Sys2Proof.Machine.execFrameRsvd7 f s
  | .frameClose f => Sys2Proof.Machine.execFrameClose f s
  | .framePing f => Sys2Proof.Machine.execFramePing f s
  | .framePong f => Sys2Proof.Machine.execFramePong f s
  | .frameRsvd11 f => Sys2Proof.Machine.execFrameRsvd11 f s
  | .frameRsvd12 f => Sys2Proof.Machine.execFrameRsvd12 f s
  | .frameRsvd13 f => Sys2Proof.Machine.execFrameRsvd13 f s
  | .frameRsvd14 f => Sys2Proof.Machine.execFrameRsvd14 f s
  | .frameRsvd15 f => Sys2Proof.Machine.execFrameRsvd15 f s

end Sys2Proof.Machine
end

