-- ==== Sys2Proof/Machine/Step.lean ====
section
/-! DEFINITION. One step: one input of the host, which is one command or one reset (spec/00_scope.md R8). -/

namespace Sys2Proof.Machine

/-- One step. The next input is taken from the port; a command word is decoded and executed, an illegal one is answered
(60_exceptions.md R285 point 1), a reset event resets the block; with no input nothing happens. -/
def step (s : State) : Host.Outcome State Fault Refusal :=
  match nextInput s with
  | none => idle s
  | some (.reset, s1) => resetEvent s1
  | some (.command c, s1) =>
    match decodeCommand c with
    | .ok i => exec i s1
    | .error _ => execIllegal s1

/-- The state whose next step runs the instruction that a table word stands for (log entry 7). A command word becomes
the next command on the port. A frame row's byte 0 is stored with a zero byte after it at offsets 0 and 1 of RXBUF, in
an open session with a clear latch, and the next command is RECV, which is what runs a frame. -/
def State.withFetchWord (s : State) (nbits w : Nat) : State :=
  if nbits = 8 then
    { s with sess := .opened, perr := false, pcause := 0, rxbuf := tableWireBytes w ++ s.rxbuf.drop 2,
             port := .command (plainCommand 0x60000000) :: s.port }
  else { s with port := .command (plainCommand (BitVec.ofNat 32 w)) :: s.port }

end Sys2Proof.Machine
end

