-- ==== Sys2Proof/Machine/Assembler.lean ====
section
/-! DEFINITION. Reading the written form of commands, one line at a time (spec/30_encoding.md R111, R112): tokens, then
operands, then the line. What the rule leaves open of the spelling is in log entry 14. -/

namespace Sys2Proof.Machine

/-- A token of a line. -/
inductive Token where
  | word (chars : List Char)
  | text (chars : List Char)
  | comma
  | plus
  | star
  | lbrace
  | rbrace
deriving DecidableEq, Repr

/-- What is being read: nothing, a word, or a quoted string, with its characters so far, last first. -/
inductive Pending where
  | none
  | word (rev : List Char)
  | text (rev : List Char)
deriving DecidableEq, Repr

/-- A character of a word: a letter, a digit, `.` or `-`. -/
def wordChar (c : Char) : Bool := c.isAlphanum || decide (c = '.') || decide (c = '-')

/-- The token of a single character. -/
def punctuation (c : Char) : Option Token :=
  if c = ',' then some .comma
  else if c = '+' then some .plus
  else if c = '*' then some .star
  else if c.toNat = 0x7B then some .lbrace
  else if c.toNat = 0x7D then some .rbrace
  else none

/-- The tokens of a line; none if a character has no place or a string is not ended. `;` outside a string starts a
comment. A quoted string ends at the next quote, with no way to write a quote inside one (DESIGN CHOICE, log entry 14;
R111 does not say). -/
def lex : Pending → List Char → Option (List Token)
  | .none, [] => some []
  | .word rev, [] => some [.word rev.reverse]
  | .text _, [] => none
  | .text rev, c :: rest =>
    if c = '"' then (lex .none rest).map (.text rev.reverse :: ·) else lex (.text (c :: rev)) rest
  | .word rev, c :: rest =>
    if wordChar c then lex (.word (c :: rev)) rest
    else if c = ';' then some [.word rev.reverse]
    else if c = ' ' then (lex .none rest).map (.word rev.reverse :: ·)
    else if c = '"' then (lex (.text []) rest).map (.word rev.reverse :: ·)
    else (punctuation c).bind fun t => (lex .none rest).map (.word rev.reverse :: t :: ·)
  | .none, c :: rest =>
    if wordChar c then lex (.word [c]) rest
    else if c = ';' then some []
    else if c = ' ' then lex .none rest
    else if c = '"' then lex (.text []) rest
    else (punctuation c).bind fun t => (lex .none rest).map (t :: ·)

/-- The value of a digit in a base of at most 16. -/
def digitOf (base : Nat) (c : Char) : Option Nat :=
  let v := if '0' ≤ c ∧ c ≤ '9' then c.toNat - 0x30
    else if 'a' ≤ c ∧ c ≤ 'f' then c.toNat - 0x61 + 10
    else if 'A' ≤ c ∧ c ≤ 'F' then c.toNat - 0x41 + 10
    else 16
  if v < base then some v else none

/-- The value of digits after a value. -/
def digitsFrom (base : Nat) : Nat → List Char → Option Nat
  | acc, [] => some acc
  | acc, c :: rest => (digitOf base c).bind fun d => digitsFrom base (acc * base + d) rest

/-- A decimal or `0x` hex number. -/
def numberOf (chars : List Char) : Option Nat :=
  match chars with
  | [] => none
  | '0' :: 'x' :: c :: rest => digitsFrom 16 0 (c :: rest)
  | c :: rest => digitsFrom 10 0 (c :: rest)

/-- A number below a bound, as a word of bits. -/
def boundedNumber (w bound : Nat) (chars : List Char) : Option (BitVec w) :=
  (numberOf chars).bind fun v => if v < bound then some (BitVec.ofNat w v) else none

/-- `<fin>` and `<msk>`: 0 or 1. -/
def bitOf (chars : List Char) : Option Bool :=
  if chars = ['0'] then some false else if chars = ['1'] then some true else none

/-- `<key>`: `-`, or eight hex digits. -/
def keyOf (chars : List Char) : Option (Option KeyWord) :=
  if chars = ['-'] then some none
  else if chars.length = 8 then (digitsFrom 16 0 chars).map fun v => some (BitVec.ofNat 32 v)
  else none

/-- A byte: two hex digits. -/
def hexByte (chars : List Char) : Option Byte :=
  if chars.length = 2 then (digitsFrom 16 0 chars).map (BitVec.ofNat 8) else none

/-- The bytes up to a closing brace, and the tokens after it. -/
def hexList : List Token → Option (List Byte × List Token)
  | .word chars :: rest => (hexByte chars).bind fun b => (hexList rest).map fun p => (b :: p.1, p.2)
  | .rbrace :: rest => some ([], rest)
  | _ => none

/-- A part of `<bytes>` and the tokens after it. -/
def bytesPart (tokens : List Token) : Option (ByteExpr × List Token) :=
  match tokens with
  | .text chars :: rest => some (.text chars, rest)
  | .lbrace :: rest =>
    match hexList rest with
    | some ([b], .star :: .word k :: after) => (numberOf k).map fun n => (.copies b n, after)
    | some (bs, after) => some (.hex bs, after)
    | none => none
  | _ => none

/-- `<bytes>`: parts joined by `+`, at most as many as the first argument, to the end of the line. -/
def bytesOf : Nat → List Token → Option ByteExpr
  | 0, _ => none
  | n + 1, tokens =>
    match bytesPart tokens with
    | some (e, []) => some e
    | some (e, .plus :: rest) => (bytesOf n rest).map (.join e)
    | _ => none

/-- `<bytes>` of a whole operand, whose strings are printable. -/
def bytesOperand (tokens : List Token) : Option ByteExpr :=
  (bytesOf tokens.length tokens).filter ByteExpr.wf

/-- `<key>, <bytes>` of a pseudo-instruction. -/
def keyAndBytes (make : Option KeyWord → ByteExpr → AsmLine) (tokens : List Token) : Option AsmLine :=
  match tokens with
  | .word k :: .comma :: rest => (keyOf k).bind fun key => (bytesOperand rest).map (make key)
  | _ => none

/-- The operands of ENCODE. -/
def encodeOperands (tokens : List Token) : Option AsmLine :=
  match tokens with
  | .word f :: .comma :: .word o :: .comma :: .word m :: .comma :: rest =>
    (bitOf f).bind fun fin => (boundedNumber 4 16 o).bind fun opc => (bitOf m).bind fun msk =>
      keyAndBytes (.encode fin opc msk) rest
  | _ => none

/-- The operands of ENC.FRAG. -/
def fragOperands (tokens : List Token) : Option AsmLine :=
  match tokens with
  | .word o :: .comma :: rest => (boundedNumber 4 16 o).bind fun opc => keyAndBytes (.encFrag opc) rest
  | _ => none

/-- The operand of CONSUME. -/
def countOperand (tokens : List Token) : Option AsmLine :=
  match tokens with
  | [.word n] => (boundedNumber 64 (2 ^ 64) n).map .consume
  | _ => none

/-- A line without operands. -/
def bare (line : AsmLine) (tokens : List Token) : Option AsmLine :=
  match tokens with
  | [] => some line
  | _ => none

/-- The mnemonics, and how each reads its operands. -/
def mnemonics : List (List Char × (List Token → Option AsmLine)) :=
  [(['O', 'P', 'E', 'N'], bare .openSess), (['C', 'L', 'O', 'S', 'E'], bare .closeSess),
   (['S', 'T', 'A', 'T', 'U', 'S'], bare .status), (['D', 'E', 'C', 'O', 'D', 'E'], bare .decode),
   (['R', 'E', 'C', 'V'], bare .recv), (['E', 'N', 'C', 'O', 'D', 'E'], encodeOperands),
   (['A', 'P', 'P', 'E', 'N', 'D'], fun ts => (bytesOperand ts).map .append),
   (['C', 'O', 'N', 'S', 'U', 'M', 'E'], countOperand),
   (['E', 'N', 'C', '.', 'C', 'O', 'N', 'T'], keyAndBytes .encCont),
   (['E', 'N', 'C', '.', 'T', 'E', 'X', 'T'], keyAndBytes .encText),
   (['E', 'N', 'C', '.', 'B', 'I', 'N'], keyAndBytes .encBin),
   (['E', 'N', 'C', '.', 'C', 'L', 'O', 'S', 'E'], keyAndBytes .encClose),
   (['E', 'N', 'C', '.', 'P', 'I', 'N', 'G'], keyAndBytes .encPing),
   (['E', 'N', 'C', '.', 'P', 'O', 'N', 'G'], keyAndBytes .encPong),
   (['E', 'N', 'C', '.', 'F', 'R', 'A', 'G'], fragOperands), (['R', 'E', 'O', 'P', 'E', 'N'], bare .reopen)]

/-- A line of tokens: the written line, or no command where none stands, on an empty line or one with a comment only
(DESIGN CHOICE, log entry 14; R111 does not say). -/
def lineOfTokens (tokens : List Token) : Option (Option AsmLine) :=
  match tokens with
  | [] => some none
  | .word m :: rest => (mnemonics.find? fun p => decide (p.1 = m)).bind fun p => (p.2 rest).map some
  | _ => none

/-- A line of characters. -/
def readLine (chars : List Char) : Option (Option AsmLine) := (lex .none chars).bind lineOfTokens

/-- The commands of a written program, one line after another; none if a line cannot be read. -/
def assembleProgram : List (List Char) → Option (List Instr)
  | [] => some []
  | line :: rest =>
    (readLine line).bind fun l => (assembleProgram rest).map fun is => (l.elim [] AsmLine.assemble) ++ is

/-- What the host issues for a written program: the encodings of its commands (30_encoding.md R111). -/
def hostInputs (is : List Instr) : List HostInput :=
  is.filterMap fun i => match encode i with | .command c => some (.command c) | .wire _ => none

end Sys2Proof.Machine
end

