-- ==== Sys2Proof/Machine/HostLoop.lean ====
section
/-! DEFINITION. The host's reference receive procedure, built from the block's commands (spec/70_reset_and_hazards.md
R332 to R336, R340, R341). It is the host's and no rule of the block depends on it (log entry 12). -/

namespace Sys2Proof.Machine

/-- How the receive procedure ends. -/
inductive HostResult where
  /-- RECV returned a frame. -/
  | frame (r : Response)
  /-- RECV returned PROTOCOL_ERROR, which the caller is told (R334), or a status that R334 does not name, which is
  NOT_OPEN (DESIGN CHOICE, log entry 12). -/
  | failed (r : Response)
  /-- `recvRaw` returned empty: the peer closed, no frame (R336). -/
  | peerClosed
  /-- No further bytes within the caller's bound (R335). -/
  | timeout
  /-- The rounds given to the model's loop are spent. -/
  | roundsSpent
  /-- The block stopped, which no command of it does. -/
  | stopped
deriving DecidableEq, Repr

/-- The state after a command and the response it returned. -/
def answerOf (o : Result) : Option (Response × State) :=
  match o with
  | .next t => t.responses.getLast?.map fun r => (r, t)
  | .fault _ => none
  | .refused _ => none

/-- How many bytes of a read the host appends at once after an OVERFLOW: FREE of them (R340). -/
def splitAt (cap : Capacity) (bytes : List Byte) : Nat :=
  match cap with
  | .finite c => c
  | .inf => bytes.length

/-- APPEND a read; on OVERFLOW, APPEND the bytes that fit and keep the rest (R334, R340). Any other answer ends it with
nothing kept (R334 names OK; NOT_OPEN is the model's choice, log entry 12). Answers the state and the bytes kept. -/
def hostAppend (bytes : List Byte) (s : State) : Option (State × List Byte) :=
  match answerOf (execAppend bytes s) with
  | none => none
  | some (r, t) =>
    if r.status = .overflow then
      (answerOf (execAppend (bytes.take (splitAt (freeBytes Config.rxbufCap t) bytes)) t)).map fun p =>
        (p.2, bytes.drop (splitAt (freeBytes Config.rxbufCap t) bytes))
    else some (t, [])

/-- The reads still to come, with what the host kept of the last one in front. -/
def keepRest (rest : List Byte) (reads : List (List Byte)) : List (List Byte) :=
  match rest with
  | [] => reads
  | b :: bs => (b :: bs) :: reads

/-- `recvFrame`: RECV, and on NEED_MORE one read and its APPEND, again (R334). `reads` is what `recvRaw` returns, in
order; its end is the Timeout. Answers how the procedure ends, the reads left and the state. -/
def hostRecvFrame : Nat → List (List Byte) → State → HostResult × List (List Byte) × State
  | 0, reads, s => (.roundsSpent, reads, s)
  | rounds + 1, reads, s =>
    match answerOf (execRecv s) with
    | none => (.stopped, reads, s)
    | some (r, t) =>
      if r.status = .ok then (.frame r, reads, t)
      else if r.status = .needMore then
        match reads with
        | [] => (.timeout, [], t)
        | [] :: more => (.peerClosed, more, t)
        | (b :: bs) :: more =>
          match hostAppend (b :: bs) t with
          | none => (.stopped, more, t)
          | some (u, rest) => hostRecvFrame rounds (keepRest rest more) u
      else (.failed r, reads, t)

/-- `recvFrame` as its caller sees it: after a PROTOCOL_ERROR the host issues CLOSE (R334, R341). R334 and R294 name no
other error of RECV; on one (NOT_OPEN in a closed session) the model's host ends as failed and issues CLOSE too, which
then answers NOT_OPEN and changes nothing (DESIGN CHOICE, log entry 12). -/
def hostReceive (rounds : Nat) (reads : List (List Byte)) (s : State) : HostResult × List (List Byte) × State :=
  match hostRecvFrame rounds reads s with
  | (.failed r, left, t) => (.failed r, left, ((answerOf (execClose t)).map Prod.snd).getD t)
  | (.frame r, left, t) => (.frame r, left, t)
  | (.peerClosed, left, t) => (.peerClosed, left, t)
  | (.timeout, left, t) => (.timeout, left, t)
  | (.roundsSpent, left, t) => (.roundsSpent, left, t)
  | (.stopped, left, t) => (.stopped, left, t)

/-- Steps 2 and 4 of the boot order: OPEN, then APPEND of the bytes the handshake left over (R332, R333). None where
OPEN does not succeed, for which R332 has no step (DESIGN CHOICE, log entry 12). Answers the state and the bytes that did not fit. -/
def hostBoot (leftover : List Byte) (s : State) : Option (State × List Byte) :=
  match answerOf (execOpen s) with
  | none => none
  | some (r, t) => if r.status = .ok then hostAppend leftover t else none

/-- The largest count that the operand N can hold (30_encoding.md R97). -/
def maxCount : Nat := 2 ^ 64 - 1

/-- CONSUME `n` bytes (70_reset_and_hazards.md R337). A frame's `consumed` is a natural number (00_scope.md R13) and can
be more than N can hold; the spec does not say how the host then passes it. DESIGN CHOICE (log entry 17): one CONSUME of
the largest count, then one of what is left, so that exactly `n` bytes leave. -/
def hostConsume (n : Nat) (s : State) : Option State :=
  (answerOf (execConsume (BitVec.ofNat 64 (min n maxCount)) s)).bind fun p =>
    if n ≤ maxCount then some p.2
    else (answerOf (execConsume (BitVec.ofNat 64 (n - maxCount)) p.2)).map Prod.snd

/-- DECODE, and on OK a CONSUME of the bytes it reports: the sequence that RECV fuses (42_buffer.md R222,
60_exceptions.md R294). How a count above N's range is passed is the model's choice (`hostConsume`, log entry 17). -/
def hostDecodeConsume (s : State) : Option (Response × State) :=
  match answerOf (execDecode s) with
  | none => none
  | some (r, t) =>
    match r.consumed with
    | some n => (hostConsume n t).map fun u => (r, u)
    | none => some (r, t)

end Sys2Proof.Machine
end

