-- ==== Sys2Proof/Safety.lean ====
section
/-! DEFINITION. What claims about the machine are stated in: the invariants of spec/10_state.md R36, the form of a
response, the history of a session, and the numbers of a frame header. -/

namespace Sys2Proof.Machine

/-- The invariants of 10_state.md R36, and that the unused cause 3 is never held (R35). -/
structure Inv (s : State) : Prop where
  closed_clear : s.sess = .closed → s.rxbuf = [] ∧ s.perr = false ∧ s.pcause = 0
  latch_iff_cause : s.perr = false ↔ s.pcause = 0
  within_capacity : admits Config.rxbufCap s.rxbuf.length = true
  cause_used : s.pcause ≠ 3

/-- The optional fields of a response stand together as one of four outcomes: none of them; ENCODE's output; a frame,
which satisfies 10_state.md R42; CONSUME's count (10_state.md R41). -/
inductive FieldsOk : ResponseFields → Prop where
  | bare : FieldsOk {}
  | encoded (out : List Byte) : FieldsOk { out := some out }
  | frame (f : ResponseFields) (out : List Byte) (fin masked : Bool) (opc : Opcode) (hlen : Nat)
      (hf : f = { out := some out, fin := some fin, opc := some opc, masked := some masked, key := f.key,
                  len := some out.length, consumed := some (hlen + 4 * masked.toNat + out.length) })
      (hkey : f.key.isSome = masked) (hh : hlen = 2 ∨ hlen = 4 ∨ hlen = 10) : FieldsOk f
  | counted (k : Nat) : FieldsOk { count := some k }

/-- A response as the spec allows it: fields only with OK (10_state.md R41), the cause codes of 60_exceptions.md R282,
the reserved bits of the STATE word 0 (10_state.md R37). -/
structure ResponseOk (r : Response) : Prop where
  fields : FieldsOk r.toResponseFields
  bare_unless_ok : r.status ≠ .ok → r.toResponseFields = {}
  cause_named : r.status = .protocolError ∨ r.status = .inputError → r.cause = 1 ∨ r.cause = 2
  cause_zero : r.status ≠ .protocolError → r.status ≠ .inputError → r.cause = 0
  reserved_zero : r.state.toNat < 16

/-- Whether an instruction answers with a frame (10_state.md R41: DECODE and RECV, and the frame rows RECV runs). -/
def answersFrame (i : Instr) : Bool :=
  match i with
  | .openSess => false
  | .closeSess => false
  | .encode _ _ _ _ _ => false
  | .append _ => false
  | .decode => true
  | .recv => true
  | .consume _ => false
  | .status => false
  | .frameContinuation _ => true
  | .frameText _ => true
  | .frameBinary _ => true
  | .frameRsvd3 _ => true
  | .frameRsvd4 _ => true
  | .frameRsvd5 _ => true
  | .frameRsvd6 _ => true
  | .frameRsvd7 _ => true
  | .frameClose _ => true
  | .framePing _ => true
  | .framePong _ => true
  | .frameRsvd11 _ => true
  | .frameRsvd12 _ => true
  | .frameRsvd13 _ => true
  | .frameRsvd14 _ => true
  | .frameRsvd15 _ => true

/-- The bytes appended since the last OPEN, after the next input: emptied by an OPEN that succeeds, extended by an
APPEND that succeeds (42_buffer.md R224). `h` is the history before it. -/
def nextHistory (s : State) (h : List Byte) : List Byte :=
  match s.port with
  | .command c :: _ =>
    match decodeCommand c with
    | .ok .openSess => if s.sess = .closed then [] else h
    | .ok (.append data) =>
      if s.sess = .opened ∧ admits Config.rxbufCap (s.rxbuf.length + data.length) = true then h ++ data else h
    | _ => h
  | _ => h

/-- How many of a list of inputs are commands. -/
def commandCount (inputs : List HostInput) : Nat :=
  inputs.countP fun x => match x with | .command _ => true | .reset => false

/-- The outcome of the decoder with another opcode reported. -/
def withOpcode (opc : Opcode) (o : FrameOutcome) : FrameOutcome :=
  match o with
  | .frame d => .frame { d with opc := opc }
  | .needMore => .needMore
  | .perror c => .perror c
  | .badRead => .badRead

/-- LEN7 as a number: bits 6:0 of byte 1 (30_encoding.md R102). -/
def headerInd (b1 : Byte) : Nat := b1.toNat % 128

/-- `hlen` as a number (30_encoding.md R104). -/
def headerLen (b1 : Byte) : Nat := if headerInd b1 = 126 then 4 else if headerInd b1 = 127 then 10 else 2

/-- The byte at an offset of a frame as a number. -/
def byteNat (buf : List Byte) (off : Nat) : Nat := (buf.getD off 0).toNat

/-- LEN as a number (30_encoding.md R105): `f[1][6:0]`, or `u16be(f, 2)`, or `u64be(f, 2)` written out. -/
def headerPayloadLen (buf : List Byte) (b1 : Byte) : Nat :=
  if headerInd b1 = 126 then byteNat buf 2 * 2 ^ 8 + byteNat buf 3
  else if headerInd b1 = 127 then
    byteNat buf 2 * 2 ^ 56 + byteNat buf 3 * 2 ^ 48 + byteNat buf 4 * 2 ^ 40 + byteNat buf 5 * 2 ^ 32
      + byteNat buf 6 * 2 ^ 24 + byteNat buf 7 * 2 ^ 16 + byteNat buf 8 * 2 ^ 8 + byteNat buf 9
  else headerInd b1

/-- `payload_start` as a number (30_encoding.md R104): `hlen + 4*m`. -/
def headerStart (b1 : Byte) : Nat := headerLen b1 + 4 * (b1.toNat / 128)

/-- The key bytes of a frame, present exactly when bit 7 of byte 1 is 1 (41_decode.md R178). -/
def headerKey (buf : List Byte) (b1 : Byte) : Option Key :=
  if b1.toNat / 128 = 1 then
    some ⟨buf.getD (headerLen b1) 0, buf.getD (headerLen b1 + 1) 0, buf.getD (headerLen b1 + 2) 0,
          buf.getD (headerLen b1 + 3) 0⟩
  else none

end Sys2Proof.Machine
end

