-- ==== Sys2Proof/Certificates/Slice0/Obligations.lean ====
section
/-! DEFINITION. The statements for the provers. Each docstring names the rule of spec/ it states. -/

open Sys2Proof Sys2Proof.Machine

/-! ## Parameters, reset, codes -/

/-- 00_scope.md R9: the ranges of the two parameters, and that every frame the decoder accepts fits in RXBUF. -/
def Obligations.ParametersInRange : Prop :=
  65536 ≤ Config.maxPayloadLen ∧ Config.maxPayloadLen ≤ 2 ^ 64 - 1 ∧
  (∀ c, Config.rxbufCap = .finite c → Config.maxPayloadLen + 14 ≤ c) ∧
  (∀ buf d, decodeFrame Config.maxPayloadLen buf = .frame d → admits Config.rxbufCap d.consumed = true)

/-- 10_state.md R43: the reset values. -/
def Obligations.ResetValues : Prop :=
  State.reset.sess = .closed ∧ State.reset.rxbuf = [] ∧ State.reset.perr = false ∧ State.reset.pcause = 0 ∧
  stateWord State.reset = 0x00000000#32

/-- 70_reset_and_hazards.md R330: the reset event sets every state element to its reset value, in any state, and returns
no response. What the host issues next and what it was answered stay (the model's choice, log entry 11). -/
def Obligations.ResetEventClearsBlock : Prop :=
  ∀ (s : State) (rest : List HostInput), s.port = .reset :: rest →
    step s = .next { sess := .closed, rxbuf := [], perr := false, pcause := 0, port := rest, responses := s.responses }

/-- 10_state.md R37: the STATE word bit by bit. -/
def Obligations.StateWordFields : Prop :=
  ∀ s : State,
    (stateWord s).getLsbD 0 = decide (s.sess = .opened) ∧ (stateWord s).getLsbD 1 = s.perr ∧
    (stateWord s).extractLsb' 2 2 = s.pcause ∧ (stateWord s).extractLsb' 4 28 = 0

/-- 60_exceptions.md R281 and R282: the status and cause codes; no code of 8 or above stands for a status. -/
def Obligations.StatusAndCauseCodes : Prop :=
  (Status.code .ok = 0 ∧ Status.code .needMore = 1 ∧ Status.code .protocolError = 2 ∧ Status.code .inputError = 3 ∧
   Status.code .notOpen = 4 ∧ Status.code .overflow = 5 ∧ Status.code .illegalCmd = 6 ∧ Status.code .stateError = 7) ∧
  (protoCode .rsvNonzero = 1 ∧ protoCode .lenOverCap = 2 ∧ inputCode .maskMissing = 1 ∧ inputCode .lenTooLarge = 2) ∧
  (∀ x : Status, (Status.code x).toNat < 8) ∧ (∀ x y : Status, Status.code x = Status.code y → x = y)

/-- 30_encoding.md R96: the key bytes of the KEY word, and its two examples. -/
def Obligations.KeyWordBytes : Prop :=
  (∀ a b c d : Byte, keyOfWord (a ++ b ++ c ++ d) = ⟨a, b, c, d⟩) ∧
  keyOfWord 0x61616161 = ⟨0x61, 0x61, 0x61, 0x61⟩ ∧ (keyOfWord 0x01020304).k0 = 0x01

/-! ## A step -/

/-- 00_scope.md R8, 30_encoding.md R94: when the next input is a command whose word decodes to an instruction, the step
is that instruction's meaning at the state with the command taken from the port. -/
def Obligations.StepRunsDecodedCommand : Prop :=
  ∀ (s : State) (c : Command) (rest : List HostInput) (i : Instr),
    s.port = .command c :: rest → decodeCommand c = .ok i → step s = exec i { s with port := rest }

/-- 41_decode.md R186, 30_encoding.md R100 (log entry 6): a RECV step at a buffer that begins with the bytes of a
well-formed frame is that frame row's meaning, in any session and latch state and under any length. -/
def Obligations.RecvStepRunsFrameInFront : Prop :=
  ∀ (s : State) (c : Command) (rest : List HostInput) (i : Instr) (bytes tail : List Byte),
    s.port = .command c :: rest → c.word = 0x60000000 → i.wf = true → encode i = .wire bytes →
    s.rxbuf = bytes ++ tail → step s = exec i { s with port := rest }

/-- 70_reset_and_hazards.md R346: with no input nothing happens. That a step then answers the same state is the model's
choice (log entry 4). -/
def Obligations.NoInputNothingHappens : Prop :=
  ∀ s : State, s.port = [] → step s = .next s

/-- Log entry 7: the step after `withFetchWord` runs the instruction the table word decodes to. -/
def Obligations.TableWordRunsNext : Prop :=
  (∀ (s : State) (w : Nat) (i : Instr), decodeTableWord 32 w = some i → step (s.withFetchWord 32 w) = exec i s) ∧
  (∀ (s : State) (w : Nat) (i : Instr), decodeTableWord 8 w = some i →
    step (s.withFetchWord 8 w) =
      exec i { s with sess := .opened, perr := false, pcause := 0, rxbuf := tableWireBytes w ++ s.rxbuf.drop 2 })

/-- 43_session.md R253: a word that matches no row of 30_encoding.md R94 writes no state and returns ILLEGAL_CMD, cause
0, with `state` and `rxlen` as before; the rule's five examples. -/
def Obligations.IllegalWordAnswered : Prop :=
  (∀ (s : State) (c : Command) (rest : List HostInput), s.port = .command c :: rest →
    c.word ≠ 0x10000000 → c.word ≠ 0x20000000 → c.word &&& 0xF10FFFFF ≠ 0x30000000 → c.word ≠ 0x40000000 →
    c.word ≠ 0x50000000 → c.word ≠ 0x60000000 → c.word ≠ 0x70000000 → c.word ≠ 0x80000000 →
    step s = .next { s with
      port := rest
      responses := s.responses ++
        [{ status := .illegalCmd, cause := 0, state := stateWord s, rxlen := s.rxbuf.length }] }) ∧
  (∀ (s : State) (c : Command) (rest : List HostInput), s.port = .command c :: rest →
    c.word ∈ [0x00000000#32, 0x90000000, 0x10000001, 0x31000000, 0x30000001] →
    step s = .next { s with
      port := rest
      responses := s.responses ++
        [{ status := .illegalCmd, cause := 0, state := stateWord s, rxlen := s.rxbuf.length }] })

/-- 30_encoding.md R92, R94: which word selects which command, the fields of ENCODE, and that a reserved CMDOP selects
none. -/
def Obligations.CommandMapDecodes : Prop :=
  ∀ c : Command,
    (c.word &&& 0xFFFFFFFF = 0x10000000 → decodeCommand c = .ok .openSess) ∧
    (c.word &&& 0xFFFFFFFF = 0x20000000 → decodeCommand c = .ok .closeSess) ∧
    (c.word &&& 0xF10FFFFF = 0x30000000 →
      decodeCommand c = .ok (.encode (c.word.getLsbD 27) (c.word.extractLsb' 20 4) (c.word.getLsbD 26)
        (if c.word.getLsbD 25 = true then some c.key else none) c.data)) ∧
    (c.word &&& 0xFFFFFFFF = 0x40000000 → decodeCommand c = .ok (.append c.data)) ∧
    (c.word &&& 0xFFFFFFFF = 0x50000000 → decodeCommand c = .ok .decode) ∧
    (c.word &&& 0xFFFFFFFF = 0x60000000 → decodeCommand c = .ok .recv) ∧
    (c.word &&& 0xFFFFFFFF = 0x70000000 → decodeCommand c = .ok (.consume c.n)) ∧
    (c.word &&& 0xFFFFFFFF = 0x80000000 → decodeCommand c = .ok .status) ∧
    (c.word.extractLsb' 28 4 = 0 ∨ 9 ≤ (c.word.extractLsb' 28 4).toNat → ∃ e, decodeCommand c = .error e)

/-- 30_encoding.md R95: the rows do not overlap, a word is legal exactly when it matches one row, and an illegal word is
answered ILLEGAL_CMD with no state change. -/
def Obligations.LegalWordMatchesOneRow : Prop :=
  (∀ (w : CmdWord) (r1 r2 : CmdRow), r1 ∈ commandTable → r2 ∈ commandTable → r1.selects w = true →
    r2.selects w = true → r1 = r2) ∧
  (∀ c : Command, (∃ i, decodeCommand c = .ok i) ↔ ∃ r ∈ commandTable, r.selects c.word = true) ∧
  (∀ (s : State) (c : Command) (rest : List HostInput), s.port = .command c :: rest →
    (¬ ∃ r ∈ commandTable, r.selects c.word = true) →
    step s = .next (reply .illegalCmd 0 {} { s with port := rest }))

/-- 30_encoding.md R90: an ignored operand has no effect whatever its value. Two commands with the same word that agree
on the operands their row reads step alike. -/
def Obligations.IgnoredOperandsHaveNoEffect : Prop :=
  ∀ (s : State) (c d : Command) (rest : List HostInput), c.word = d.word →
    (c.word &&& 0xF10FFFFF = 0x30000000 → c.data = d.data) →
    (c.word &&& 0xF10FFFFF = 0x30000000 → c.word.getLsbD 26 = true → c.word.getLsbD 25 = true → c.key = d.key) →
    (c.word = 0x40000000 → c.data = d.data) → (c.word = 0x70000000 → c.n = d.n) →
    step { s with port := .command c :: rest } = step { s with port := .command d :: rest }

/-- 10_state.md R40: a later command cannot read an earlier command's status. A step on another record of responses
returns the same new responses and the same state but for that record. -/
def Obligations.ResponsesAreNotRead : Prop :=
  ∀ (s t : State) (log : List Response), step s = .next t →
    ∃ new, t.responses = s.responses ++ new ∧
      step { s with responses := log } = .next { t with responses := log ++ new }

/-- 00_scope.md R23: the block never waits; every command completes and returns a response, which carries the STATE word
and the buffer's length after the command. -/
def Obligations.EveryCommandReturnsOneResponse : Prop :=
  ∀ (s : State) (c : Command) (rest : List HostInput), s.port = .command c :: rest →
    ∃ t r, step s = .next t ∧ t.port = rest ∧ t.responses = s.responses ++ [r] ∧ r.state = stateWord t ∧
      r.rxlen = t.rxbuf.length

/-- 70_reset_and_hazards.md R346: any finite sequence of inputs runs to its end from any state, and returns one response
for each command and none for a reset. -/
def Obligations.RunAnswersEveryCommand : Prop :=
  ∀ s : State, ∃ t, Host.Core.run Sys2Proof.core s.port.length s = .next t ∧ t.port = [] ∧
    ∃ new, t.responses = s.responses ++ new ∧ new.length = commandCount s.port

/-! ## Encoding -/

/-- 30_encoding.md R113: the examples of command words, from their written lines. -/
def Obligations.CommandWordExamples : Prop :=
  (AsmLine.openSess.assemble.map encode = [.command ⟨0x10000000, [], 0, 0⟩]) ∧
  ((AsmLine.encode true 9 true (some 0x61616161) (.text ['a', 'b', 'c', 'd'])).assemble.map encode =
    [.command ⟨0x3E900000, [0x61, 0x62, 0x63, 0x64], 0x61616161, 0⟩]) ∧
  ((AsmLine.encText none (.text ['A'])).assemble = (AsmLine.encode true 1 false none (.text ['A'])).assemble) ∧
  ((AsmLine.encText none (.text ['A'])).assemble.map encode = [.command ⟨0x38100000, [0x41], 0, 0⟩]) ∧
  ((AsmLine.encode false 2 true none (.hex [])).assemble.map encode = [.command ⟨0x34200000, [], 0, 0⟩]) ∧
  (AsmLine.recv.assemble.map encode = [.command ⟨0x60000000, [], 0, 0⟩])

/-- 30_encoding.md R112: the pseudo-instructions, for a key written and for none. -/
def Obligations.PseudoInstructionsExpand : Prop :=
  (∀ (k : KeyWord) (d : ByteExpr),
    (AsmLine.encCont (some k) d).assemble = (AsmLine.encode true 0 true (some k) d).assemble ∧
    (AsmLine.encText (some k) d).assemble = (AsmLine.encode true 1 true (some k) d).assemble ∧
    (AsmLine.encBin (some k) d).assemble = (AsmLine.encode true 2 true (some k) d).assemble ∧
    (AsmLine.encClose (some k) d).assemble = (AsmLine.encode true 8 true (some k) d).assemble ∧
    (AsmLine.encPing (some k) d).assemble = (AsmLine.encode true 9 true (some k) d).assemble ∧
    (AsmLine.encPong (some k) d).assemble = (AsmLine.encode true 10 true (some k) d).assemble ∧
    ∀ opc, (AsmLine.encFrag opc (some k) d).assemble = (AsmLine.encode false opc true (some k) d).assemble) ∧
  (∀ d : ByteExpr,
    (AsmLine.encCont none d).assemble = (AsmLine.encode true 0 false none d).assemble ∧
    (AsmLine.encText none d).assemble = (AsmLine.encode true 1 false none d).assemble ∧
    (AsmLine.encBin none d).assemble = (AsmLine.encode true 2 false none d).assemble ∧
    (AsmLine.encClose none d).assemble = (AsmLine.encode true 8 false none d).assemble ∧
    (AsmLine.encPing none d).assemble = (AsmLine.encode true 9 false none d).assemble ∧
    (AsmLine.encPong none d).assemble = (AsmLine.encode true 10 false none d).assemble ∧
    ∀ opc, (AsmLine.encFrag opc none d).assemble = (AsmLine.encode false opc false none d).assemble) ∧
  AsmLine.reopen.assemble = AsmLine.closeSess.assemble ++ AsmLine.openSess.assemble

/-- 30_encoding.md R101, R107: byte 0 of each row with FIN = 1, and a zero byte after it, decode to the row's
instruction. That the 8-bit word of a row is laid out with a zero byte 1 is the model's choice (log entry 10). -/
def Obligations.FrameRowWordsDecode : Prop :=
  (List.range 16).map (fun k => decodeTableWord 8 (0x80 + k)) =
    ([.frameContinuation, .frameText, .frameBinary, .frameRsvd3, .frameRsvd4, .frameRsvd5, .frameRsvd6, .frameRsvd7,
      .frameClose, .framePing, .framePong, .frameRsvd11, .frameRsvd12, .frameRsvd13, .frameRsvd14,
      .frameRsvd15] : List (WireFrame → Instr)).map fun row => some (row ⟨true, .len7, none, []⟩)

/-- 30_encoding.md R94, R111: decoding the encoding of any command gives it back, with every operand. -/
def Obligations.CommandDecodeOfEncode : Prop :=
  ∀ (i : Instr) (c : Command), encode i = .command c → decodeCommand c = .ok i

/-- 30_encoding.md R100 to R106: decoding the bytes of any well-formed frame, in any length form that holds its payload,
masked or not, gives the frame back and the bytes after it. -/
def Obligations.WireDecodeOfEncode : Prop :=
  ∀ (i : Instr) (bytes rest : List Byte), i.wf = true → encode i = .wire bytes →
    decodeWire (bytes ++ rest) = .ok (i, rest)

/-! ## ENCODE -/

/-- 40_encode.md R142 to R145 and R147: the output of ENCODE, byte by byte, and its length; nothing but the response is
written. The masking transform is `MaskTransformBytes`. -/
def Obligations.EncodeOutput : Prop :=
  ∀ (fin : Bool) (opc : Opcode) (msk : Bool) (key : Option KeyWord) (data : List Byte) (s : State),
    (msk = true → key.isSome = true) → data.length < 2 ^ 64 →
    ∃ (ind : Nat) (ext body out : List Byte),
      exec (.encode fin opc msk key data) s = .next { s with responses := s.responses ++
        [{ status := .ok, cause := 0, state := stateWord s, rxlen := s.rxbuf.length, out := some out }] } ∧
      out = [BitVec.ofNat 8 (fin.toNat * 2 ^ 7 + opc.toNat), BitVec.ofNat 8 (msk.toNat * 2 ^ 7 + ind)] ++ ext ++ body ∧
      (data.length < 126 → ind = data.length ∧ ext = []) ∧
      (126 ≤ data.length → data.length ≤ 65535 →
        ind = 126 ∧ ext = [BitVec.ofNat 8 (data.length / 2 ^ 8), BitVec.ofNat 8 data.length]) ∧
      (65536 ≤ data.length →
        ind = 127 ∧ ext = [BitVec.ofNat 8 (data.length / 2 ^ 56), BitVec.ofNat 8 (data.length / 2 ^ 48),
          BitVec.ofNat 8 (data.length / 2 ^ 40), BitVec.ofNat 8 (data.length / 2 ^ 32),
          BitVec.ofNat 8 (data.length / 2 ^ 24), BitVec.ofNat 8 (data.length / 2 ^ 16),
          BitVec.ofNat 8 (data.length / 2 ^ 8), BitVec.ofNat 8 data.length]) ∧
      (msk = false → body = data) ∧
      (∀ w, msk = true → key = some w →
        body = [w.extractLsb' 24 8, w.extractLsb' 16 8, w.extractLsb' 8 8, w.extractLsb' 0 8]
          ++ maskx (keyOfWord w) data) ∧
      out.length = 2 + ext.length + 4 * msk.toNat + data.length

/-- 40_encode.md R141: the two input errors in their order, that either writes no state and returns no `out`, and that
MKV and KEY are ignored when MSK = 0. -/
def Obligations.EncodeInputErrors : Prop :=
  (∀ (fin : Bool) (opc : Opcode) (data : List Byte) (s : State),
    exec (.encode fin opc true none data) s = .next { s with responses := s.responses ++
      [{ status := .inputError, cause := 1, state := stateWord s, rxlen := s.rxbuf.length }] }) ∧
  (∀ (fin : Bool) (opc : Opcode) (msk : Bool) (key : Option KeyWord) (data : List Byte) (s : State),
    (msk = true → key.isSome = true) → 2 ^ 64 ≤ data.length →
    exec (.encode fin opc msk key data) s = .next { s with responses := s.responses ++
      [{ status := .inputError, cause := 2, state := stateWord s, rxlen := s.rxbuf.length }] }) ∧
  (∀ (fin : Bool) (opc : Opcode) (key : Option KeyWord) (data : List Byte) (s : State),
    exec (.encode fin opc false key data) s = exec (.encode fin opc false none data) s)

/-- 40_encode.md R148: ENCODE reads no state and writes no state. Its status, cause and output are the same in any two
states, and only the response is added. -/
def Obligations.EncodeReadsAndWritesNoState : Prop :=
  ∀ (fin : Bool) (opc : Opcode) (msk : Bool) (key : Option KeyWord) (data : List Byte) (s t : State),
    ∃ (st : Status) (cause : BitVec 2) (f : ResponseFields),
      exec (.encode fin opc msk key data) s = .next { s with responses := s.responses ++
        [{ f with status := st, cause := cause, state := stateWord s, rxlen := s.rxbuf.length }] } ∧
      exec (.encode fin opc msk key data) t = .next { t with responses := t.responses ++
        [{ f with status := st, cause := cause, state := stateWord t, rxlen := t.rxbuf.length }] }

/-- 40_encode.md R146: the masking transform, byte by byte, and its length. -/
def Obligations.MaskTransformBytes : Prop :=
  ∀ (k : Key) (s : List Byte),
    (maskx k s).length = s.length ∧
    ∀ (i : Nat) (b m : Byte), s[i]? = some b → [k.k0, k.k1, k.k2, k.k3][i % 4]? = some m →
      (maskx k s)[i]? = some (b ^^^ m)

/-- 40_encode.md R151: masking twice with the same key restores the bytes. -/
def Obligations.MaskingIsAnInvolution : Prop :=
  ∀ (k : Key) (s : List Byte), maskx k (maskx k s) = s

/-- 40_encode.md R152: the round trip. The decoder applied to ENCODE's output with any bytes after it gives the frame
back. -/
def Obligations.DecodeOfEncodeOutput : Prop :=
  ∀ (fin : Bool) (opc : Opcode) (msk : Bool) (key : Option KeyWord) (data rest : List Byte) (s : State),
    (msk = true → key.isSome = true) → data.length ≤ Config.maxPayloadLen →
    ∃ (out : List Byte) (form : LenForm),
      exec (.encode fin opc msk key data) s = .next { s with responses := s.responses ++
        [{ status := .ok, cause := 0, state := stateWord s, rxlen := s.rxbuf.length, out := some out }] } ∧
      decodeFrame Config.maxPayloadLen (out ++ rest) =
        .frame ⟨fin, opc, msk, if msk = true then key.map keyOfWord else none, data, out.length, form⟩

/-! ## The frame decoder -/

/-- 41_decode.md R170 to R179: the outcome of `decodeFrame`, step by step, in numbers. The steps are tried in order. -/
def Obligations.FrameDecoderSteps : Prop :=
  ∀ (maxLen : Nat), 65536 ≤ maxLen →
    (∀ buf : List Byte, buf.length < 2 → decodeFrame maxLen buf = .needMore) ∧
    (∀ (b0 b1 : Byte) (tail buf : List Byte), buf = b0 :: b1 :: tail →
      (b0.toNat / 16 % 8 ≠ 0 → decodeFrame maxLen buf = .perror .rsvNonzero) ∧
      (b0.toNat / 16 % 8 = 0 →
        (buf.length < headerLen b1 → decodeFrame maxLen buf = .needMore) ∧
        (headerLen b1 ≤ buf.length →
          (maxLen < headerPayloadLen buf b1 → decodeFrame maxLen buf = .perror .lenOverCap) ∧
          (headerPayloadLen buf b1 ≤ maxLen →
            (buf.length < headerStart b1 + headerPayloadLen buf b1 → decodeFrame maxLen buf = .needMore) ∧
            (headerStart b1 + headerPayloadLen buf b1 ≤ buf.length →
              ∃ form payload, decodeFrame maxLen buf =
                .frame ⟨decide (b0.toNat / 128 = 1), BitVec.ofNat 4 b0.toNat, decide (b1.toNat / 128 = 1),
                  headerKey buf b1, payload, headerStart b1 + headerPayloadLen buf b1, form⟩ ∧
                form.hlen = headerLen b1 ∧
                (headerKey buf b1 = none →
                  payload = (buf.drop (headerStart b1)).take (headerPayloadLen buf b1)) ∧
                (∀ k, headerKey buf b1 = some k →
                  payload = maskx k ((buf.drop (headerStart b1)).take (headerPayloadLen buf b1))))))))

/-- 20_memory.md R62: the decoder never reads at or beyond |RXBUF|. -/
def Obligations.DecoderReadsOnlyInsideBuffer : Prop :=
  ∀ (maxLen : Nat) (buf : List Byte), decodeFrame maxLen buf ≠ .badRead

/-- 10_state.md R42: the invariant of a decoded frame. -/
def Obligations.DecodedFrameInvariant : Prop :=
  ∀ (maxLen : Nat) (b0 b1 : Byte) (tail : List Byte) (d : DecodedFrame),
    decodeFrame maxLen (b0 :: b1 :: tail) = .frame d →
    d.payload.length = headerPayloadLen (b0 :: b1 :: tail) b1 ∧ d.key.isSome = d.masked ∧
    d.consumed = headerLen b1 + 4 * d.masked.toNat + d.payload.length

/-- 41_decode.md R182: more bytes never change a decided outcome. -/
def Obligations.ExtensionLaw : Prop :=
  ∀ (maxLen : Nat) (b s : List Byte),
    (∀ d, decodeFrame maxLen b = .frame d → decodeFrame maxLen (b ++ s) = .frame d) ∧
    (∀ c, decodeFrame maxLen b = .perror c → decodeFrame maxLen (b ++ s) = .perror c)

/-- 41_decode.md R183: every proper prefix of a frame is NEED_MORE, and the whole is the frame. -/
def Obligations.PartialBufferLaw : Prop :=
  ∀ (maxLen : Nat) (frame : List Byte) (d : DecodedFrame),
    decodeFrame maxLen frame = .frame d → d.consumed = frame.length →
    ∀ p q : List Byte, frame = p ++ q → q ≠ [] → decodeFrame maxLen p = .needMore

/-- 30_encoding.md R107: every opcode is treated alike. Another opcode in byte 0 changes nothing of the decoder's outcome
but the opcode reported, and nothing of ENCODE's output but byte 0. -/
def Obligations.OpcodesAreOpaque : Prop :=
  (∀ (maxLen : Nat) (fin : Bool) (rsv : BitVec 3) (o1 o2 : Opcode) (tail : List Byte),
    decodeFrame maxLen ((BitVec.ofBool fin ++ rsv ++ o2 : BitVec 8) :: tail) =
      withOpcode o2 (decodeFrame maxLen ((BitVec.ofBool fin ++ rsv ++ o1 : BitVec 8) :: tail))) ∧
  (∀ (fin : Bool) (msk : Bool) (key : Option KeyWord) (data : List Byte) (s : State),
    (msk = true → key.isSome = true) → data.length < 2 ^ 64 →
    ∃ tail : List Byte, ∀ opc : Opcode, exec (.encode fin opc msk key data) s =
      .next (reply .ok 0 { out := some ((BitVec.ofBool fin ++ 0#3 ++ opc : BitVec 8) :: tail) } s))

/-! ## DECODE, RECV and the frame rows -/

/-- 41_decode.md R184: DECODE. Its word and that DATA, KEY and N are ignored; the two checks; the outcomes of
`decodeFrame`. RXBUF is never changed. -/
def Obligations.DecodeCommandEffect : Prop :=
  (∀ (data : List Byte) (key : KeyWord) (n : Count), decodeCommand ⟨0x50000000, data, key, n⟩ = .ok .decode) ∧
  (∀ s : State, s.sess = .closed →
    exec .decode s = .next { s with responses := s.responses ++
      [{ status := .notOpen, cause := 0, state := stateWord s, rxlen := s.rxbuf.length }] }) ∧
  (∀ s : State, s.sess = .opened → s.perr = true →
    exec .decode s = .next { s with responses := s.responses ++
      [{ status := .protocolError, cause := s.pcause, state := stateWord s, rxlen := s.rxbuf.length }] }) ∧
  (∀ s : State, s.sess = .opened → s.perr = false → decodeFrame Config.maxPayloadLen s.rxbuf = .needMore →
    exec .decode s = .next { s with responses := s.responses ++
      [{ status := .needMore, cause := 0, state := stateWord s, rxlen := s.rxbuf.length }] }) ∧
  (∀ (s : State) (c : ProtoCause), s.sess = .opened → s.perr = false →
    decodeFrame Config.maxPayloadLen s.rxbuf = .perror c →
    exec .decode s = .next { s with perr := true, pcause := protoCode c, responses := s.responses ++
      [{ status := .protocolError, cause := protoCode c,
         state := stateWord { s with perr := true, pcause := protoCode c }, rxlen := s.rxbuf.length }] }) ∧
  (∀ (s : State) (d : DecodedFrame), s.sess = .opened → s.perr = false →
    decodeFrame Config.maxPayloadLen s.rxbuf = .frame d →
    exec .decode s = .next { s with responses := s.responses ++
      [{ status := .ok, cause := 0, state := stateWord s, rxlen := s.rxbuf.length, out := some d.payload,
         fin := some d.fin, opc := some d.opc, masked := some d.masked, key := d.key,
         len := some d.payload.length, consumed := some d.consumed }] })

/-- 41_decode.md R186: RECV. As DECODE, and on OK the frame's bytes leave the front of RXBUF and the rest is kept. -/
def Obligations.RecvCommandEffect : Prop :=
  (∀ (data : List Byte) (key : KeyWord) (n : Count), decodeCommand ⟨0x60000000, data, key, n⟩ = .ok .recv) ∧
  (∀ s : State, s.sess = .closed →
    exec .recv s = .next { s with responses := s.responses ++
      [{ status := .notOpen, cause := 0, state := stateWord s, rxlen := s.rxbuf.length }] }) ∧
  (∀ s : State, s.sess = .opened → s.perr = true →
    exec .recv s = .next { s with responses := s.responses ++
      [{ status := .protocolError, cause := s.pcause, state := stateWord s, rxlen := s.rxbuf.length }] }) ∧
  (∀ s : State, s.sess = .opened → s.perr = false → decodeFrame Config.maxPayloadLen s.rxbuf = .needMore →
    exec .recv s = .next { s with responses := s.responses ++
      [{ status := .needMore, cause := 0, state := stateWord s, rxlen := s.rxbuf.length }] }) ∧
  (∀ (s : State) (c : ProtoCause), s.sess = .opened → s.perr = false →
    decodeFrame Config.maxPayloadLen s.rxbuf = .perror c →
    exec .recv s = .next { s with perr := true, pcause := protoCode c, responses := s.responses ++
      [{ status := .protocolError, cause := protoCode c,
         state := stateWord { s with perr := true, pcause := protoCode c }, rxlen := s.rxbuf.length }] }) ∧
  (∀ (s : State) (d : DecodedFrame), s.sess = .opened → s.perr = false →
    decodeFrame Config.maxPayloadLen s.rxbuf = .frame d →
    exec .recv s = .next { s with rxbuf := s.rxbuf.drop d.consumed, responses := s.responses ++
      [{ status := .ok, cause := 0, state := stateWord s, rxlen := s.rxbuf.length - d.consumed,
         out := some d.payload, fin := some d.fin, opc := some d.opc, masked := some d.masked, key := d.key,
         len := some d.payload.length, consumed := some d.consumed }] })

/-- 20_memory.md R70: DECODE is idempotent. Two DECODEs at states with the same SESS, RXBUF, PERR and PCAUSE between them
return the same response. -/
def Obligations.DecodeIsIdempotent : Prop :=
  ∀ s t u : State, exec .decode s = .next t → u.sess = t.sess → u.rxbuf = t.rxbuf → u.perr = t.perr →
    u.pcause = t.pcause →
    ∃ r v, t.responses = s.responses ++ [r] ∧ exec .decode u = .next v ∧ v.responses = u.responses ++ [r] ∧
      t.rxbuf = s.rxbuf ∧ v.rxbuf = t.rxbuf

/-- 42_buffer.md R223, third row: CONSUME of the `consumed` of the DECODE before it leaves what RECV would have left. The
count must fit the 64-bit operand N (30_encoding.md R97). -/
def Obligations.DecodeThenConsumeIsRecv : Prop :=
  ∀ (s t : State) (r : Response) (n : Nat), exec .decode s = .next t → t.responses = s.responses ++ [r] →
    r.status = .ok → r.consumed = some n → n < 2 ^ 64 →
    ∃ u v, exec (.consume (BitVec.ofNat 64 n)) t = .next u ∧ exec .recv s = .next v ∧ u.rxbuf = v.rxbuf ∧
      u.sess = v.sess ∧ u.perr = v.perr ∧ u.pcause = v.pcause

/-- 41_decode.md R186, R179, 30_encoding.md R104, R107 (log entry 6): each of the sixteen frame rows delivers its frame
and removes its bytes, in an open session with a clear latch, for a payload within the cap. -/
def Obligations.FrameRowsDeliver : Prop :=
  ∀ row ∈ ([(.frameContinuation, 0), (.frameText, 1), (.frameBinary, 2), (.frameRsvd3, 3), (.frameRsvd4, 4),
      (.frameRsvd5, 5), (.frameRsvd6, 6), (.frameRsvd7, 7), (.frameClose, 8), (.framePing, 9), (.framePong, 10),
      (.frameRsvd11, 11), (.frameRsvd12, 12), (.frameRsvd13, 13), (.frameRsvd14, 14),
      (.frameRsvd15, 15)] : List ((WireFrame → Instr) × Opcode)),
    ∀ (f : WireFrame) (s : State), s.sess = .opened → s.perr = false →
      f.payload.length ≤ Config.maxPayloadLen →
      exec (row.1 f) s = .next { s with
        rxbuf := s.rxbuf.drop (f.form.hlen + (if f.key.isSome = true then 4 else 0) + f.payload.length)
        responses := s.responses ++
          [{ status := .ok, cause := 0, state := stateWord s,
             rxlen := s.rxbuf.length - (f.form.hlen + (if f.key.isSome = true then 4 else 0) + f.payload.length),
             out := some f.payload, fin := some f.fin, opc := some row.2, masked := some f.key.isSome, key := f.key,
             len := some f.payload.length,
             consumed := some (f.form.hlen + (if f.key.isSome = true then 4 else 0) + f.payload.length) }] }

/-- 60_exceptions.md R285, 41_decode.md R176 (log entry 6): where each of the sixteen frame rows is turned away, in the
order of the checks: no session, a latched error, a payload over the cap. RXBUF is unchanged. -/
def Obligations.FrameRowsTurnedAway : Prop :=
  ∀ row ∈ ([.frameContinuation, .frameText, .frameBinary, .frameRsvd3, .frameRsvd4, .frameRsvd5, .frameRsvd6,
      .frameRsvd7, .frameClose, .framePing, .framePong, .frameRsvd11, .frameRsvd12, .frameRsvd13, .frameRsvd14,
      .frameRsvd15] : List (WireFrame → Instr)),
    ∀ (f : WireFrame) (s : State),
      (s.sess = .closed → exec (row f) s = .next { s with responses := s.responses ++
        [{ status := .notOpen, cause := 0, state := stateWord s, rxlen := s.rxbuf.length }] }) ∧
      (s.sess = .opened → s.perr = true → exec (row f) s = .next { s with responses := s.responses ++
        [{ status := .protocolError, cause := s.pcause, state := stateWord s, rxlen := s.rxbuf.length }] }) ∧
      (s.sess = .opened → s.perr = false → Config.maxPayloadLen < f.payload.length →
        exec (row f) s = .next { s with perr := true, pcause := 2, responses := s.responses ++
          [{ status := .protocolError, cause := 2, state := stateWord { s with perr := true, pcause := 2 },
             rxlen := s.rxbuf.length }] })

/-! ## The buffer -/

/-- 42_buffer.md R220: APPEND. Its word and that KEY and N are ignored; NOT_OPEN; OVERFLOW with no byte appended; else all
bytes appended, whatever PERR is. -/
def Obligations.AppendCommandEffect : Prop :=
  (∀ (data : List Byte) (key : KeyWord) (n : Count), decodeCommand ⟨0x40000000, data, key, n⟩ = .ok (.append data)) ∧
  (∀ (data : List Byte) (s : State), s.sess = .closed →
    exec (.append data) s = .next { s with responses := s.responses ++
      [{ status := .notOpen, cause := 0, state := stateWord s, rxlen := s.rxbuf.length }] }) ∧
  (∀ (data : List Byte) (s : State) (cap : Nat), s.sess = .opened → Config.rxbufCap = .finite cap →
    cap < s.rxbuf.length + data.length →
    exec (.append data) s = .next { s with responses := s.responses ++
      [{ status := .overflow, cause := 0, state := stateWord s, rxlen := s.rxbuf.length }] }) ∧
  (∀ (data : List Byte) (s : State), s.sess = .opened →
    (∀ cap, Config.rxbufCap = .finite cap → s.rxbuf.length + data.length ≤ cap) →
    exec (.append data) s = .next { s with rxbuf := s.rxbuf ++ data, responses := s.responses ++
      [{ status := .ok, cause := 0, state := stateWord s, rxlen := s.rxbuf.length + data.length }] })

/-- 42_buffer.md R222: CONSUME. Its word and that DATA and KEY are ignored; NOT_OPEN; the latch; else min(N, |RXBUF|)
bytes removed and counted, for every N. -/
def Obligations.ConsumeCommandEffect : Prop :=
  (∀ (data : List Byte) (key : KeyWord) (n : Count), decodeCommand ⟨0x70000000, data, key, n⟩ = .ok (.consume n)) ∧
  (∀ (n : Count) (s : State), s.sess = .closed →
    exec (.consume n) s = .next { s with responses := s.responses ++
      [{ status := .notOpen, cause := 0, state := stateWord s, rxlen := s.rxbuf.length }] }) ∧
  (∀ (n : Count) (s : State), s.sess = .opened → s.perr = true →
    exec (.consume n) s = .next { s with responses := s.responses ++
      [{ status := .protocolError, cause := s.pcause, state := stateWord s, rxlen := s.rxbuf.length }] }) ∧
  (∀ (n : Count) (s : State), s.sess = .opened → s.perr = false →
    exec (.consume n) s = .next { s with rxbuf := s.rxbuf.drop (min n.toNat s.rxbuf.length), responses := s.responses ++
      [{ status := .ok, cause := 0, state := stateWord s, rxlen := s.rxbuf.length - min n.toNat s.rxbuf.length,
         count := some (min n.toNat s.rxbuf.length) }] })

/-- 20_memory.md R61: where each byte stands after APPEND, RECV and CONSUME, read one byte at a time. -/
def Obligations.BufferBytesKeepTheirOrder : Prop :=
  (∀ (data : List Byte) (s t : State), exec (.append data) s = .next t →
    (∀ off, off < s.rxbuf.length → memByte t.rxbuf off = memByte s.rxbuf off) ∧
    (s.rxbuf.length < t.rxbuf.length → ∀ off, memByte t.rxbuf (s.rxbuf.length + off) = memByte data off)) ∧
  (∀ (s t : State), exec .recv s = .next t →
    ∃ k, k ≤ s.rxbuf.length ∧ t.rxbuf.length = s.rxbuf.length - k ∧
      ∀ off, memByte t.rxbuf off = memByte s.rxbuf (k + off)) ∧
  (∀ (n : Count) (s t : State), exec (.consume n) s = .next t →
    ∃ k, k ≤ s.rxbuf.length ∧ t.rxbuf.length = s.rxbuf.length - k ∧
      ∀ off, memByte t.rxbuf off = memByte s.rxbuf (k + off))

/-- 20_memory.md R63: what each command may do to RXBUF; no command writes a byte in place, and decoding does not
unmask. -/
def Obligations.NoByteWrittenInPlace : Prop :=
  ∀ s t : State,
    (∀ data, exec (.append data) s = .next t → ∃ tail, t.rxbuf = s.rxbuf ++ tail) ∧
    (exec .recv s = .next t → ∃ k, t.rxbuf = s.rxbuf.drop k) ∧
    (∀ n, exec (.consume n) s = .next t → ∃ k, t.rxbuf = s.rxbuf.drop k) ∧
    (exec .openSess s = .next t → t.rxbuf = [] ∨ t.rxbuf = s.rxbuf) ∧
    (exec .closeSess s = .next t → t.rxbuf = [] ∨ t.rxbuf = s.rxbuf) ∧
    (exec .decode s = .next t → ∀ off, memByte t.rxbuf off = memByte s.rxbuf off) ∧
    (exec .status s = .next t → ∀ off, memByte t.rxbuf off = memByte s.rxbuf off) ∧
    (∀ fin opc msk key data, exec (.encode fin opc msk key data) s = .next t →
      ∀ off, memByte t.rxbuf off = memByte s.rxbuf off)

/-- 42_buffer.md R224: RXBUF is what the host has appended since the last OPEN, in order, less a prefix: it is so at
reset, where nothing has been appended, and every step keeps it so. -/
def Obligations.BufferIsHistoryLessAPrefix : Prop :=
  (∃ k, State.reset.rxbuf = ([] : List Byte).drop k) ∧
  (∀ (s t : State) (h : List Byte), step s = .next t → (∃ k, s.rxbuf = h.drop k) →
    ∃ k, t.rxbuf = (nextHistory s h).drop k)

/-! ## The session -/

/-- 43_session.md R250: OPEN. -/
def Obligations.OpenCommandEffect : Prop :=
  (∀ (data : List Byte) (key : KeyWord) (n : Count), decodeCommand ⟨0x10000000, data, key, n⟩ = .ok .openSess) ∧
  (∀ s : State, s.sess = .opened →
    exec .openSess s = .next { s with responses := s.responses ++
      [{ status := .stateError, cause := 0, state := stateWord s, rxlen := s.rxbuf.length }] }) ∧
  (∀ s : State, s.sess = .closed →
    exec .openSess s = .next { s with
      sess := .opened, rxbuf := [], perr := false, pcause := 0
      responses := s.responses ++ [{ status := .ok, cause := 0, state := 0x00000001, rxlen := 0 }] })

/-- 43_session.md R251: CLOSE. -/
def Obligations.CloseCommandEffect : Prop :=
  (∀ (data : List Byte) (key : KeyWord) (n : Count), decodeCommand ⟨0x20000000, data, key, n⟩ = .ok .closeSess) ∧
  (∀ s : State, s.sess = .closed →
    exec .closeSess s = .next { s with responses := s.responses ++
      [{ status := .notOpen, cause := 0, state := stateWord s, rxlen := s.rxbuf.length }] }) ∧
  (∀ s : State, s.sess = .opened →
    exec .closeSess s = .next { s with
      sess := .closed, rxbuf := [], perr := false, pcause := 0
      responses := s.responses ++ [{ status := .ok, cause := 0, state := 0x00000000, rxlen := 0 }] })

/-- 43_session.md R252: STATUS succeeds in either session state and whatever PERR holds, and writes no state. -/
def Obligations.StatusCommandEffect : Prop :=
  (∀ (data : List Byte) (key : KeyWord) (n : Count), decodeCommand ⟨0x80000000, data, key, n⟩ = .ok .status) ∧
  (∀ s : State, exec .status s = .next { s with responses := s.responses ++
    [{ status := .ok, cause := 0, state := stateWord s, rxlen := s.rxbuf.length }] })

/-- 10_state.md R31, 43_session.md R250, R251, 70_reset_and_hazards.md R330: OPEN completes in every closed session and
leaves SESS OPEN; CLOSE completes in every open session and leaves SESS CLOSED; and a step of any input that changes SESS is
one of these two or a reset event. -/
def Obligations.SessionMovesOnlyByOpenCloseOrReset : Prop :=
  (∀ s : State, s.sess = .closed → ∃ t, exec .openSess s = .next t ∧ t.sess = .opened) ∧
  (∀ s : State, s.sess = .opened → ∃ t, exec .closeSess s = .next t ∧ t.sess = .closed) ∧
  (∀ (s t : State) (c : Command) (rest : List HostInput), s.port = .command c :: rest → step s = .next t →
    (c.word = 0x10000000 → s.sess = .closed → t.sess = .opened) ∧
    (c.word = 0x20000000 → s.sess = .opened → t.sess = .closed)) ∧
  (∀ s t : State, step s = .next t → t.sess ≠ s.sess →
    (∃ c rest, s.port = .command c :: rest ∧ c.word = 0x10000000 ∧ s.sess = .closed ∧ t.sess = .opened) ∨
    (∃ c rest, s.port = .command c :: rest ∧ c.word = 0x20000000 ∧ s.sess = .opened ∧ t.sess = .closed) ∨
    (∃ rest, s.port = .reset :: rest ∧ s.sess = .opened ∧ t.sess = .closed))

/-- 70_reset_and_hazards.md R331: the session is closed after reset. In every closed session ENCODE and STATUS work, the
buffer commands return NOT_OPEN, no input but OPEN opens it, and OPEN succeeds; in every open session no buffer command
returns NOT_OPEN. -/
def Obligations.AfterReset : Prop :=
  State.reset.sess = .closed ∧
  (∀ (s : State) (fin : Bool) (opc : Opcode) (msk : Bool) (key : Option KeyWord) (data : List Byte), s.sess = .closed →
    (msk = true → key.isSome = true) → data.length < 2 ^ 64 →
    ∃ t r, exec (.encode fin opc msk key data) s = .next t ∧ t.responses = s.responses ++ [r] ∧ r.status = .ok) ∧
  (∀ s : State, s.sess = .closed →
    ∃ t r, exec .status s = .next t ∧ t.responses = s.responses ++ [r] ∧ r.status = .ok) ∧
  (∀ (s : State) (data : List Byte) (n : Count), s.sess = .closed →
    ∀ i ∈ [Instr.append data, .decode, .recv, .consume n],
    ∃ t r, exec i s = .next t ∧ t.responses = s.responses ++ [r] ∧ r.status = .notOpen ∧ t.sess = .closed) ∧
  (∀ s t : State, s.sess = .closed → (∀ c rest, s.port = .command c :: rest → c.word ≠ 0x10000000) →
    step s = .next t → t.sess = .closed) ∧
  (∀ s : State, s.sess = .closed →
    ∃ t r, exec .openSess s = .next t ∧ t.responses = s.responses ++ [r] ∧ r.status = .ok ∧ t.sess = .opened) ∧
  (∀ (s : State) (data : List Byte) (n : Count), s.sess = .opened →
    ∀ i ∈ [Instr.append data, .decode, .recv, .consume n],
    ∃ t r, exec i s = .next t ∧ t.responses = s.responses ++ [r] ∧ r.status ≠ .notOpen)

/-! ## Errors -/

/-- 60_exceptions.md R286: while PERR = 1 in an open session, DECODE, RECV and CONSUME write no state and return
PROTOCOL_ERROR with cause PCAUSE, whatever RXBUF holds. -/
def Obligations.LatchRefusal : Prop :=
  ∀ (s : State) (n : Count), s.sess = .opened → s.perr = true → ∀ i ∈ [Instr.decode, .recv, .consume n],
    exec i s = .next { s with responses := s.responses ++
      [{ status := .protocolError, cause := s.pcause, state := stateWord s, rxlen := s.rxbuf.length }] }

/-- 41_decode.md R188: a protocol error found by the decoder sets the latch in both commands, leaves RXBUF unchanged and
returns PROTOCOL_ERROR with its cause. -/
def Obligations.ProtocolErrorSetsLatch : Prop :=
  ∀ (s : State) (c : ProtoCause), s.sess = .opened → s.perr = false →
    decodeFrame Config.maxPayloadLen s.rxbuf = .perror c → ∀ i ∈ [Instr.decode, .recv],
    ∃ t r, exec i s = .next t ∧ t.perr = true ∧ t.pcause = protoCode c ∧ t.rxbuf = s.rxbuf ∧ t.sess = s.sess ∧
      t.responses = s.responses ++ [r] ∧ r.status = .protocolError ∧ r.cause = protoCode c

/-- 60_exceptions.md R284: what is written on each status other than OK: PERR and PCAUSE on a new protocol error, and
nothing on any other. -/
def Obligations.ErrorsWriteNothingElse : Prop :=
  ∀ (s t : State) (r : Response) (c : Command) (rest : List HostInput), s.port = .command c :: rest →
    step s = .next t → t.responses = s.responses ++ [r] → r.status ≠ .ok →
    t.sess = s.sess ∧ t.rxbuf = s.rxbuf ∧
    (r.status ≠ .protocolError → t.perr = s.perr ∧ t.pcause = s.pcause) ∧
    (s.perr = true → t.perr = s.perr ∧ t.pcause = s.pcause) ∧
    (r.status = .protocolError → s.perr = false → t.perr = true ∧ t.pcause = r.cause)

/-- 60_exceptions.md R285, points 2 and 3: the session check comes before the latch check, and the latch check before the
decoder and before N is looked at; OPEN has no latch check. -/
def Obligations.SessionThenLatchCheck : Prop :=
  (∀ (s : State) (data : List Byte) (n : Count), s.sess = .closed →
    ∀ i ∈ [Instr.closeSess, .append data, .decode, .recv, .consume n],
    ∃ t r, exec i s = .next t ∧ t.responses = s.responses ++ [r] ∧ r.status = .notOpen ∧ t.rxbuf = s.rxbuf ∧
      t.perr = s.perr ∧ t.pcause = s.pcause ∧ t.sess = s.sess) ∧
  (∀ s : State, s.sess = .opened →
    ∃ t r, exec .openSess s = .next t ∧ t.responses = s.responses ++ [r] ∧ r.status = .stateError ∧
      t.rxbuf = s.rxbuf ∧ t.perr = s.perr ∧ t.pcause = s.pcause ∧ t.sess = s.sess) ∧
  (∀ (s : State) (n : Count), s.sess = .opened → s.perr = true → ∀ i ∈ [Instr.decode, .recv, .consume n],
    ∃ t r, exec i s = .next t ∧ t.responses = s.responses ++ [r] ∧ r.status = .protocolError ∧ r.cause = s.pcause)

/-- 60_exceptions.md R289: the latch is left only by CLOSE or reset, and no error while it is set changes it. States no
run reaches (a latched error in a closed session) are ruled out by `Inv`. -/
def Obligations.LatchLeftOnlyByCloseOrReset : Prop :=
  ∀ s t : State, Inv s → step s = .next t → s.perr = true →
    (t.perr = true ∧ t.pcause = s.pcause) ∨
    (∃ rest, s.port = .reset :: rest) ∨ (∃ c rest, s.port = .command c :: rest ∧ c.word = 0x20000000)

/-- 10_state.md R41: which fields a response holds, by command and status; `cause` is 0 unless the status is
PROTOCOL_ERROR or INPUT_ERROR, and an absent field holds no value. -/
def Obligations.ResponseFieldsPresent : Prop :=
  ∀ (i : Instr) (s t : State), exec i s = .next t →
    ∃ r, t.responses = s.responses ++ [r] ∧ r.state = stateWord t ∧ r.rxlen = t.rxbuf.length ∧
      (r.cause ≠ 0 → r.status = .protocolError ∨ r.status = .inputError) ∧
      (r.out.isSome = true ↔
        r.status = .ok ∧ (answersFrame i = true ∨ ∃ fin opc msk key data, i = .encode fin opc msk key data)) ∧
      (r.fin.isSome = true ↔ r.status = .ok ∧ answersFrame i = true) ∧
      (r.opc.isSome = true ↔ r.status = .ok ∧ answersFrame i = true) ∧
      (r.masked.isSome = true ↔ r.status = .ok ∧ answersFrame i = true) ∧
      (r.key.isSome = true ↔ r.status = .ok ∧ answersFrame i = true ∧ r.masked = some true) ∧
      (r.len.isSome = true ↔ r.status = .ok ∧ answersFrame i = true) ∧
      (r.consumed.isSome = true ↔ r.status = .ok ∧ answersFrame i = true) ∧
      (r.count.isSome = true ↔ r.status = .ok ∧ ∃ n, i = .consume n)

/-! ## Invariants -/

/-- 10_state.md R36: the invariants hold at reset. -/
def Obligations.InvariantsHoldAtReset : Prop := Inv State.reset ∧ Memory.wf State.reset = true

/-- 10_state.md R36, 20_memory.md R71: every step keeps the invariants, the capacity bound among them. -/
def Obligations.StepKeepsInvariants : Prop :=
  ∀ s t : State, Inv s → step s = .next t → Inv t ∧ Memory.wf t = true

/-- 60_exceptions.md R282, 10_state.md R41, R42: every step keeps every response well formed: the cause codes, the fields
together, the frame invariant, and the reserved bits of the STATE word. The first clause, about the responses at reset,
rests on the reset value [] of the record of responses, which is the model's choice (log entry 3); the second does not. -/
def Obligations.StepKeepsResponsesWellFormed : Prop :=
  (∀ r ∈ State.reset.responses, ResponseOk r) ∧
  (∀ s t : State, Inv s → (∀ r ∈ s.responses, ResponseOk r) → step s = .next t → ∀ r ∈ t.responses, ResponseOk r)

/-! ## The host's receive procedure -/

/-- 70_reset_and_hazards.md R334, 41_decode.md R183 (log entry 12): a well-formed frame within the cap that arrives cut
anywhere into non-empty reads is returned by the reference procedure, with its payload, and RXBUF is empty after it. -/
def Obligations.ReceiveProcedureReassembles : Prop :=
  ∀ (s : State) (i : Instr) (bytes : List Byte) (opc : Opcode) (f : WireFrame) (reads : List (List Byte)),
    s.sess = .opened → s.perr = false → s.rxbuf = [] → i.wf = true → encode i = .wire bytes →
    i.frame? = some (opc, f) → f.payload.length ≤ Config.maxPayloadLen → (∀ x ∈ reads, x ≠ []) →
    reads.flatten = bytes →
    ∃ r t, hostRecvFrame (reads.length + 1) reads s = (.frame r, [], t) ∧ r.out = some f.payload ∧
      r.opc = some opc ∧ r.fin = some f.fin ∧ r.key = f.key ∧ t.rxbuf = []
end

