-- ==== Sys2Proof/Laws/Bytes.lean ====
section
/-! SUPPORT. Reads of a byte sequence, big-endian integers and the masking transform. -/

namespace Sys2Proof

/-- What a defined read gives (20_memory.md R62). -/
theorem memRead_eq_some {buf bs : List Byte} {off n : Nat} :
    memRead buf off n = some bs ↔ off + n ≤ buf.length ∧ bs = (buf.drop off).take n := by
  unfold memRead
  split
  · rename_i h; simp only [Option.some.injEq, h, true_and]; exact eq_comm
  · rename_i h; simp [h]

/-- A read inside the buffer is defined. -/
theorem memRead_of_le {buf : List Byte} {off n : Nat} (h : off + n ≤ buf.length) :
    memRead buf off n = some ((buf.drop off).take n) := if_pos h

/-- A defined read is not changed by later bytes. -/
theorem memRead_append {buf : List Byte} {off n : Nat} (h : off + n ≤ buf.length) (tail : List Byte) :
    memRead (buf ++ tail) off n = memRead buf off n := by
  have h2 : off + n ≤ (buf ++ tail).length := by simp; omega
  rw [memRead_of_le h, memRead_of_le h2, List.drop_append_of_le_length (by omega),
    List.take_append_of_le_length (by simp; omega)]

theorem memByte_append {buf : List Byte} {off : Nat} (h : off < buf.length) (tail : List Byte) :
    memByte (buf ++ tail) off = memByte buf off := by
  unfold memByte
  exact List.getElem?_append_left h

@[simp] theorem beBytes_length (n v : Nat) : (beBytes n v).length = n := by
  induction n with
  | zero => rfl
  | succ n ih => simp [beBytes, ih]

@[simp] theorem maskFrom_length (k : Key) (i : Nat) (s : List Byte) : (maskFrom k i s).length = s.length := by
  induction s generalizing i with
  | nil => rfl
  | cons b rest ih => simp [maskFrom, ih]

@[simp] theorem maskx_length (k : Key) (s : List Byte) : (maskx k s).length = s.length := maskFrom_length k 0 s

/-- The byte of the transform at an index, counting from `i`. -/
theorem maskFrom_getElem? (k : Key) (i j : Nat) (s : List Byte) :
    (maskFrom k i s)[j]? = (s[j]?).map fun b => b ^^^ k.byteAt (i + j) := by
  induction s generalizing i j with
  | nil => rfl
  | cons b rest ih =>
    cases j with
    | zero => rfl
    | succ j => simp [maskFrom, ih, Nat.add_assoc, Nat.add_comm 1 j]

@[simp] theorem key_bytes_length (k : Key) : k.bytes.length = 4 := rfl

/-- The fold of `beNat` from any start. -/
theorem beNat_foldl (acc : Nat) (bs : List Byte) :
    bs.foldl (fun a b => a * 2 ^ 8 + b.toNat) acc = acc * 2 ^ (8 * bs.length) + beNat bs := by
  induction bs generalizing acc with
  | nil => simp [beNat]
  | cons b rest ih =>
    have h0 := ih (0 * 2 ^ 8 + b.toNat)
    have ha := ih (acc * 2 ^ 8 + b.toNat)
    simp only [beNat, List.foldl_cons, List.length_cons] at *
    rw [ha, h0, Nat.mul_add, Nat.pow_add]
    ring

/-- The first byte is the most significant (00_scope.md R15). -/
theorem beNat_cons (b : Byte) (bs : List Byte) : beNat (b :: bs) = b.toNat * 2 ^ (8 * bs.length) + beNat bs := by
  have := beNat_foldl (0 * 2 ^ 8 + b.toNat) bs
  simpa [beNat] using this

/-- Reading back the big-endian bytes of a value that fits gives the value. -/
theorem beNat_beBytes (n v : Nat) (h : v < 2 ^ (8 * n)) : beNat (beBytes n v) = v := by
  have key : ∀ m w, beNat (beBytes m w) = w % 2 ^ (8 * m) := by
    intro m
    induction m with
    | zero => intro w; simp [beBytes, beNat, Nat.mod_one]
    | succ m ih =>
      intro w
      rw [beBytes, beNat_cons, ih, beBytes_length]
      simp only [BitVec.toNat_ofNat]
      have e : 2 ^ (8 * (m + 1)) = 2 ^ (8 * m) * 2 ^ 8 := by rw [← Nat.pow_add]; congr 1
      rw [e, Nat.mod_mul]
      ring
  rw [key, Nat.mod_eq_of_lt h]

theorem beNat_lt (bs : List Byte) : beNat bs < 2 ^ (8 * bs.length) := by
  induction bs with
  | nil => simp [beNat]
  | cons b rest ih =>
    rw [beNat_cons, List.length_cons]
    have hb := b.isLt
    have e : 2 ^ (8 * (rest.length + 1)) = 2 ^ 8 * 2 ^ (8 * rest.length) := by rw [← Nat.pow_add]; congr 1; omega
    have : (b.toNat + 1) * 2 ^ (8 * rest.length) ≤ 2 ^ 8 * 2 ^ (8 * rest.length) := Nat.mul_le_mul_right _ hb
    rw [e]
    linarith [Nat.add_mul b.toNat 1 (2 ^ (8 * rest.length))]

end Sys2Proof
end

