-- ==== Sys2Proof/Laws/State.lean ====
section
/-! SUPPORT. One lemma for each field of State after each named update, and the fields of a response. -/

namespace Sys2Proof.Machine

@[simp] theorem setLatch_sess (c : ProtoCause) (s : State) :
    (setLatch c s).sess = s.sess := rfl

@[simp] theorem setLatch_rxbuf (c : ProtoCause) (s : State) :
    (setLatch c s).rxbuf = s.rxbuf := rfl

@[simp] theorem setLatch_perr (c : ProtoCause) (s : State) :
    (setLatch c s).perr = true := rfl

@[simp] theorem setLatch_pcause (c : ProtoCause) (s : State) :
    (setLatch c s).pcause = protoCode c := rfl

@[simp] theorem setLatch_port (c : ProtoCause) (s : State) :
    (setLatch c s).port = s.port := rfl

@[simp] theorem setLatch_responses (c : ProtoCause) (s : State) :
    (setLatch c s).responses = s.responses := rfl

@[simp] theorem clearBlock_sess (x : Session) (s : State) :
    (clearBlock x s).sess = x := rfl

@[simp] theorem clearBlock_rxbuf (x : Session) (s : State) :
    (clearBlock x s).rxbuf = [] := rfl

@[simp] theorem clearBlock_perr (x : Session) (s : State) :
    (clearBlock x s).perr = false := rfl

@[simp] theorem clearBlock_pcause (x : Session) (s : State) :
    (clearBlock x s).pcause = 0 := rfl

@[simp] theorem clearBlock_port (x : Session) (s : State) :
    (clearBlock x s).port = s.port := rfl

@[simp] theorem clearBlock_responses (x : Session) (s : State) :
    (clearBlock x s).responses = s.responses := rfl

@[simp] theorem rxAppend_sess (bytes : List Byte) (s : State) :
    (rxAppend bytes s).sess = s.sess := rfl

@[simp] theorem rxAppend_rxbuf (bytes : List Byte) (s : State) :
    (rxAppend bytes s).rxbuf = s.rxbuf ++ bytes := rfl

@[simp] theorem rxAppend_perr (bytes : List Byte) (s : State) :
    (rxAppend bytes s).perr = s.perr := rfl

@[simp] theorem rxAppend_pcause (bytes : List Byte) (s : State) :
    (rxAppend bytes s).pcause = s.pcause := rfl

@[simp] theorem rxAppend_port (bytes : List Byte) (s : State) :
    (rxAppend bytes s).port = s.port := rfl

@[simp] theorem rxAppend_responses (bytes : List Byte) (s : State) :
    (rxAppend bytes s).responses = s.responses := rfl

@[simp] theorem rxDrop_sess (k : Nat) (s : State) :
    (rxDrop k s).sess = s.sess := rfl

@[simp] theorem rxDrop_rxbuf (k : Nat) (s : State) :
    (rxDrop k s).rxbuf = s.rxbuf.drop k := rfl

@[simp] theorem rxDrop_perr (k : Nat) (s : State) :
    (rxDrop k s).perr = s.perr := rfl

@[simp] theorem rxDrop_pcause (k : Nat) (s : State) :
    (rxDrop k s).pcause = s.pcause := rfl

@[simp] theorem rxDrop_port (k : Nat) (s : State) :
    (rxDrop k s).port = s.port := rfl

@[simp] theorem rxDrop_responses (k : Nat) (s : State) :
    (rxDrop k s).responses = s.responses := rfl

@[simp] theorem reply_sess (st : Status) (cause : BitVec 2) (f : ResponseFields) (s : State) :
    (reply st cause f s).sess = s.sess := rfl

@[simp] theorem reply_rxbuf (st : Status) (cause : BitVec 2) (f : ResponseFields) (s : State) :
    (reply st cause f s).rxbuf = s.rxbuf := rfl

@[simp] theorem reply_perr (st : Status) (cause : BitVec 2) (f : ResponseFields) (s : State) :
    (reply st cause f s).perr = s.perr := rfl

@[simp] theorem reply_pcause (st : Status) (cause : BitVec 2) (f : ResponseFields) (s : State) :
    (reply st cause f s).pcause = s.pcause := rfl

@[simp] theorem reply_port (st : Status) (cause : BitVec 2) (f : ResponseFields) (s : State) :
    (reply st cause f s).port = s.port := rfl

@[simp] theorem reply_responses (st : Status) (cause : BitVec 2) (f : ResponseFields) (s : State) :
    (reply st cause f s).responses = s.responses ++ [responseOf st cause f s] := rfl

@[simp] theorem responseOf_status (st : Status) (cause : BitVec 2) (f : ResponseFields) (s : State) :
    (responseOf st cause f s).status = st := rfl

@[simp] theorem responseOf_cause (st : Status) (cause : BitVec 2) (f : ResponseFields) (s : State) :
    (responseOf st cause f s).cause = cause := rfl

@[simp] theorem responseOf_state (st : Status) (cause : BitVec 2) (f : ResponseFields) (s : State) :
    (responseOf st cause f s).state = stateWord s := rfl

@[simp] theorem responseOf_rxlen (st : Status) (cause : BitVec 2) (f : ResponseFields) (s : State) :
    (responseOf st cause f s).rxlen = s.rxbuf.length := rfl

@[simp] theorem responseOf_toResponseFields (st : Status) (cause : BitVec 2) (f : ResponseFields) (s : State) :
    (responseOf st cause f s).toResponseFields = f := rfl

/-- The STATE word depends on SESS, PERR and PCAUSE only (10_state.md R37). -/
theorem stateWord_congr {s t : State} (h1 : s.sess = t.sess) (h2 : s.perr = t.perr) (h3 : s.pcause = t.pcause) :
    stateWord s = stateWord t := by
  simp [stateWord, h1, h2, h3]

@[simp] theorem stateWord_rxAppend (bytes : List Byte) (s : State) : stateWord (rxAppend bytes s) = stateWord s := rfl

@[simp] theorem stateWord_rxDrop (k : Nat) (s : State) : stateWord (rxDrop k s) = stateWord s := rfl

/-- The STATE word of a cleared block (10_state.md R43, 43_session.md R250). -/
@[simp] theorem stateWord_clearBlock (x : Session) (s : State) :
    stateWord (clearBlock x s) = match x with | .closed => 0x00000000 | .opened => 0x00000001 := by
  have h : stateWord (clearBlock x s) = 0#28 ++ 0#2 ++ BitVec.ofBool false ++ BitVec.ofBool (sessBit x) := rfl
  rw [h]
  cases x <;> decide

@[simp] theorem rxDrop_zero (s : State) : rxDrop 0 s = s := rfl

end Sys2Proof.Machine
end

