-- ==== Sys2Proof/Laws/Config.lean ====
section
/-! SUPPORT. The parameters: what the range of 00_scope.md R9 gives the two checks that read them. -/

namespace Sys2Proof.Machine

theorem le_maxPayloadLen : 65536 ≤ Config.maxPayloadLen := Nat.le_add_left _ _

/-- A capacity in its legal range admits every count up to 65550. -/
theorem admits_of_le_65550 {n : Nat} (h : n ≤ 65550) : admits Config.rxbufCap n = true := by
  have := le_maxPayloadLen
  unfold Config.rxbufCap
  cases Config.capSlack with
  | none => rfl
  | some k => simp [admits]; omega

/-- The check APPEND makes is the capacity of 42_buffer.md R220, for every legal configuration. -/
theorem rxbufFits_eq_admits (n : Nat) : rxbufFits n = admits Config.rxbufCap n := by
  unfold rxbufFits
  by_cases h : n ≤ 65550
  · simp [h, admits_of_le_65550 h]
  · simp [h]

/-- The cap check of the decoder is `len > MAX_PAYLOAD_LEN`, for every legal cap (41_decode.md R176). -/
theorem overCap_eq {maxLen : Nat} (h : 65536 ≤ maxLen) (len : Nat) : overCap maxLen len = decide (maxLen < len) := by
  unfold overCap
  by_cases hl : 65536 < len
  · simp [hl]
  · simp [hl]; omega

theorem overCap_config (len : Nat) : overCap Config.maxPayloadLen len = decide (Config.maxPayloadLen < len) :=
  overCap_eq le_maxPayloadLen len

/-- Fewer bytes fit where more do. -/
theorem admits_mono {cap : Capacity} {m n : Nat} (hmn : m ≤ n) (h : admits cap n = true) : admits cap m = true := by
  cases cap with
  | inf => rfl
  | finite c => simp [admits] at *; omega

end Sys2Proof.Machine
end

