-- ==== Sys2Proof/Laws/Frame.lean ====
section
/-! SUPPORT. The fields of a frame header, and the stages of the frame decoder with their reads settled. -/

namespace Sys2Proof

@[simp] theorem finOf_byte0 (fin : Bool) (opc : Opcode) : finOf (byte0 fin opc) = fin := by
  cases fin <;> revert opc <;> decide

@[simp] theorem rsvOf_byte0 (fin : Bool) (opc : Opcode) : rsvOf (byte0 fin opc) = 0 := by
  cases fin <;> revert opc <;> decide

@[simp] theorem opcOf_byte0 (fin : Bool) (opc : Opcode) : opcOf (byte0 fin opc) = opc := by
  cases fin <;> revert opc <;> decide

@[simp] theorem maskedOf_byte1 (m : Bool) (ind : BitVec 7) : maskedOf (byte1 m ind) = m := by
  cases m <;> revert ind <;> decide

@[simp] theorem indOf_byte1 (m : Bool) (ind : BitVec 7) : indOf (byte1 m ind) = ind := by
  cases m <;> revert ind <;> decide

/-- The indicator written for a form announces that form. -/
theorem formOf_lenIndicator {form : LenForm} {len : Nat} (h : len < form.bound) :
    formOf (lenIndicator form len) = form := by
  cases form with
  | len16 => rfl
  | len64 => rfl
  | len7 =>
    simp only [LenForm.bound] at h
    have h1 : BitVec.ofNat 7 len ≠ 126 := by bv_omega
    have h2 : BitVec.ofNat 7 len ≠ 127 := by bv_omega
    rw [lenIndicator, formOf, if_neg h1, if_neg h2]

/-- The shortest form holds its length (30_encoding.md R106). -/
theorem lt_bound_shortestForm {len : Nat} (h : len < 2 ^ 64) : len < (shortestForm len).bound := by
  unfold shortestForm
  split
  · simpa [LenForm.bound]
  · split
    · simp only [LenForm.bound]; omega
    · exact h

theorem extBytes_length (form : LenForm) (len : Nat) : (extBytes form len).length + 2 = form.hlen := by
  cases form <;> simp [extBytes, LenForm.hlen]

theorem frameBody_length (key : Option Key) (payload : List Byte) :
    (frameBody key payload).length = keyLen key.isSome + payload.length := by
  cases key <;> simp [frameBody, keyLen]

/-- The bytes of a frame are as many as it occupies (30_encoding.md R104). -/
theorem frameBytes_length (opc : Opcode) (f : WireFrame) :
    (frameBytes f.fin opc f.form f.key f.payload).length = f.total := by
  have := extBytes_length f.form f.payload.length
  simp [frameBytes, WireFrame.total, frameBody_length]
  omega

theorem hlen_cases (form : LenForm) : form.hlen = 2 ∨ form.hlen = 4 ∨ form.hlen = 10 := by
  cases form <;> simp [LenForm.hlen]

@[simp] theorem withRead_some {α : Type} (a : α) (k : α → FrameOutcome) : withRead (some a) k = k a := rfl

/-- `decodeFrame` on at least two bytes: the RSV check, then the length (41_decode.md R172). -/
theorem decodeFrame_cons (maxLen : Nat) (b0 b1 : Byte) (tail : List Byte) :
    decodeFrame maxLen (b0 :: b1 :: tail) =
      if rsvOf b0 ≠ 0 then .perror .rsvNonzero else decodeLength maxLen (b0 :: b1 :: tail) b0 b1 := by
  simp [decodeFrame, memByte]

theorem decodeFrame_short {maxLen : Nat} {buf : List Byte} (h : buf.length < 2) :
    decodeFrame maxLen buf = .needMore := by
  simp [decodeFrame, h]

/-- Any buffer is too short for byte 1, or has both. -/
theorem short_or_cons (buf : List Byte) : buf.length < 2 ∨ ∃ b0 b1 tail, buf = b0 :: b1 :: tail := by
  match buf with
  | [] => exact .inl (by decide)
  | [_] => exact .inl (by simp)
  | b0 :: b1 :: tail => exact .inr ⟨b0, b1, tail, rfl⟩

/-- With the header there, its length is read (20_memory.md R62). -/
theorem payloadLenOf_of_hlen_le {buf : List Byte} {ind : BitVec 7} (h : (formOf ind).hlen ≤ buf.length) :
    ∃ len, payloadLenOf buf ind = some len := by
  unfold payloadLenOf
  revert h
  cases formOf ind <;> intro h <;> simp only [LenForm.hlen] at h
  · exact ⟨_, rfl⟩
  · exact ⟨_, by simp only [u16be, memRead_of_le (show 2 + 2 ≤ buf.length by omega), Option.map_some]; rfl⟩
  · exact ⟨_, by simp only [u64be, memRead_of_le (show 2 + 8 ≤ buf.length by omega), Option.map_some]; rfl⟩

/-- The length does not depend on bytes after the header. -/
theorem payloadLenOf_append {buf : List Byte} {ind : BitVec 7} (h : (formOf ind).hlen ≤ buf.length)
    (tail : List Byte) : payloadLenOf (buf ++ tail) ind = payloadLenOf buf ind := by
  unfold payloadLenOf
  revert h
  cases formOf ind <;> intro h <;> simp only [LenForm.hlen] at h
  · rfl
  · simp only [u16be, memRead_append (show 2 + 2 ≤ buf.length by omega)]
  · simp only [u64be, memRead_append (show 2 + 8 ≤ buf.length by omega)]

/-- Steps 4 and 5 with the header there. -/
theorem decodeLength_of_len {maxLen len : Nat} {buf : List Byte} {b0 b1 : Byte}
    (h : (formOf (indOf b1)).hlen ≤ buf.length) (hl : payloadLenOf buf (indOf b1) = some len) :
    decodeLength maxLen buf b0 b1 =
      if overCap maxLen len = true then .perror .lenOverCap
      else decodePayload buf b0 b1 (formOf (indOf b1)).hlen len := by
  simp [decodeLength, hl, Nat.not_lt.mpr h]

theorem decodeLength_short {maxLen : Nat} {buf : List Byte} {b0 b1 : Byte}
    (h : buf.length < (formOf (indOf b1)).hlen) : decodeLength maxLen buf b0 b1 = .needMore := by
  simp [decodeLength, h]

/-- Four bytes at an offset inside the buffer are a key. -/
theorem memKey_of_le {buf : List Byte} {off : Nat} (h : off + 4 ≤ buf.length) :
    ∃ k, memKey buf off = some k ∧ k.bytes = (buf.drop off).take 4 := by
  unfold memKey
  rw [memRead_of_le h]
  match hd : buf.drop off with
  | a :: b :: c :: d :: rest => exact ⟨⟨a, b, c, d⟩, by simp [Key.bytes]⟩
  | [] | [_] | [_, _] | [_, _, _] => exact absurd (congrArg List.length hd) (by simp; omega)

theorem memKey_append {buf : List Byte} {off : Nat} (h : off + 4 ≤ buf.length) (tail : List Byte) :
    memKey (buf ++ tail) off = memKey buf off := by
  simp [memKey, memRead_append h]

theorem decodePayload_short {buf : List Byte} {b0 b1 : Byte} {hlen len : Nat}
    (h : buf.length < payloadStart hlen b1 + len) : decodePayload buf b0 b1 hlen len = .needMore := by
  simp [decodePayload, h]

/-- Steps 6 to 8 with the whole frame there: a frame, whose parts are these (41_decode.md R178, R179). -/
theorem decodePayload_of_le {buf : List Byte} {b0 b1 : Byte} {hlen len : Nat}
    (h : payloadStart hlen b1 + len ≤ buf.length) :
    ∃ key payload, decodePayload buf b0 b1 hlen len =
        .frame ⟨finOf b0, opcOf b0, maskedOf b1, key, payload, payloadStart hlen b1 + len, formOf (indOf b1)⟩ ∧
      payload.length = len ∧ key.isSome = maskedOf b1 ∧
      (maskedOf b1 = false → payload = (buf.drop (payloadStart hlen b1)).take len) ∧
      (∀ k, key = some k → k.bytes = (buf.drop hlen).take 4 ∧
        payload = maskx k ((buf.drop (payloadStart hlen b1)).take len)) := by
  have hlt : ¬ buf.length < payloadStart hlen b1 + len := by omega
  have hbody : ((buf.drop (payloadStart hlen b1)).take len).length = len := by simp; omega
  cases hm : maskedOf b1 with
  | false =>
    exact ⟨none, _, by simp [decodePayload, hlt, memRead_of_le h, hm], hbody, rfl, fun _ => rfl, by simp⟩
  | true =>
    have hk : hlen + 4 ≤ buf.length := by simp [payloadStart, keyLen, hm] at h; omega
    obtain ⟨k, hk1, hk2⟩ := memKey_of_le hk
    refine ⟨some k, _, by simp [decodePayload, hlt, memRead_of_le h, hm, hk1]; rfl, by simpa using hbody, rfl,
      by simp, ?_⟩
    intro k' hk'
    cases hk'
    exact ⟨hk2, rfl⟩

/-! ## The header in numbers -/

theorem headerLen_eq (b1 : Byte) : Machine.headerLen b1 = (formOf (indOf b1)).hlen := by revert b1; decide

theorem headerStart_eq (b1 : Byte) : Machine.headerStart b1 = payloadStart (formOf (indOf b1)).hlen b1 := by
  revert b1; decide

theorem rsvOf_ne_zero_iff (b0 : Byte) : rsvOf b0 ≠ 0 ↔ b0.toNat / 16 % 8 ≠ 0 := by revert b0; decide

theorem finOf_eq (b0 : Byte) : finOf b0 = decide (b0.toNat / 128 = 1) := by revert b0; decide

theorem opcOf_eq (b0 : Byte) : opcOf b0 = BitVec.ofNat 4 b0.toNat := by revert b0; decide

theorem maskedOf_eq (b1 : Byte) : maskedOf b1 = decide (b1.toNat / 128 = 1) := by revert b1; decide

/-- The length form by the number LEN7. -/
theorem headerInd_cases (b1 : Byte) :
    (Machine.headerInd b1 = 126 ∧ formOf (indOf b1) = .len16) ∨
    (Machine.headerInd b1 = 127 ∧ formOf (indOf b1) = .len64) ∨
    (Machine.headerInd b1 < 126 ∧ formOf (indOf b1) = .len7 ∧ (indOf b1).toNat = Machine.headerInd b1) := by
  revert b1; decide

/-! ## A decoded frame -/

/-- What every decoded frame satisfies (10_state.md R42): a key exactly when masked, and the bytes it occupies. -/
structure FrameOk (d : DecodedFrame) : Prop where
  key_iff : d.key.isSome = d.masked
  occupies : ∃ hlen, (hlen = 2 ∨ hlen = 4 ∨ hlen = 10) ∧ d.consumed = hlen + 4 * d.masked.toNat + d.payload.length

theorem keyLen_eq (m : Bool) : keyLen m = 4 * m.toNat := by cases m <;> rfl

/-- The inversion of a frame outcome. -/
theorem decodeFrame_frame {maxLen : Nat} {buf : List Byte} {d : DecodedFrame}
    (h : decodeFrame maxLen buf = .frame d) :
    ∃ b0 b1 tail len, buf = b0 :: b1 :: tail ∧ rsvOf b0 = 0 ∧ payloadLenOf buf (indOf b1) = some len ∧
      overCap maxLen len = false ∧ payloadStart (formOf (indOf b1)).hlen b1 + len ≤ buf.length ∧
      d.fin = finOf b0 ∧ d.opc = opcOf b0 ∧ d.masked = maskedOf b1 ∧ d.key.isSome = d.masked ∧
      d.payload.length = len ∧ d.consumed = payloadStart (formOf (indOf b1)).hlen b1 + len := by
  rcases short_or_cons buf with hs | ⟨b0, b1, tail, rfl⟩
  · rw [decodeFrame_short hs] at h; cases h
  rw [decodeFrame_cons] at h
  split at h
  · cases h
  rename_i hr
  by_cases hl : (b0 :: b1 :: tail).length < (formOf (indOf b1)).hlen
  · rw [decodeLength_short hl] at h; cases h
  obtain ⟨len, hlen⟩ := payloadLenOf_of_hlen_le (Nat.le_of_not_lt hl)
  rw [decodeLength_of_len (Nat.le_of_not_lt hl) hlen] at h
  split at h
  · cases h
  rename_i hc
  by_cases hp : (b0 :: b1 :: tail).length < payloadStart (formOf (indOf b1)).hlen b1 + len
  · rw [decodePayload_short hp] at h; cases h
  obtain ⟨key, payload, he, h1, h2, -⟩ := decodePayload_of_le (b0 := b0) (Nat.le_of_not_lt hp)
  rw [he] at h
  cases h
  exact ⟨b0, b1, tail, len, rfl, by simpa using hr, hlen, by simpa using hc, Nat.le_of_not_lt hp, rfl, rfl, rfl, h2, h1,
    rfl⟩

theorem frameOk_of_decodeFrame {maxLen : Nat} {buf : List Byte} {d : DecodedFrame}
    (h : decodeFrame maxLen buf = .frame d) : FrameOk d := by
  obtain ⟨b0, b1, tail, len, -, -, -, -, -, -, -, hm, hk, hl, hc⟩ := decodeFrame_frame h
  exact ⟨hk, _, hlen_cases _, by rw [hc, payloadStart, keyLen_eq, hm, hl]⟩

theorem frameOk_decodedOf (opc : Opcode) (f : WireFrame) : FrameOk (Machine.decodedOf opc f) :=
  ⟨rfl, f.form.hlen, hlen_cases _, by simp [Machine.decodedOf, WireFrame.total, keyLen_eq]⟩

/-! ## Frame rows -/

theorem frameInstr_frame? (opc : Opcode) (f : WireFrame) : (frameInstr opc f).frame? = some (opc, f) := by
  obtain ⟨⟨n, hn⟩⟩ := opc
  interval_cases n <;> rfl

/-- An instruction encoded as wire bytes is a frame row. -/
theorem encode_eq_wire {i : Instr} {bytes : List Byte} (h : encode i = .wire bytes) :
    ∃ opc f, i = frameInstr opc f ∧ i.frame? = some (opc, f) ∧
      bytes = frameBytes f.fin opc f.form f.key f.payload := by
  cases i <;> simp only [encode, encodeFrame, Encoded.wire.injEq, reduceCtorEq] at h <;>
    exact ⟨_, _, rfl, rfl, h.symm⟩

end Sys2Proof
end

