-- ==== Sys2Proof/Laws/Decode.lean ====
section
/-! SUPPORT. The command decoder as a chain of tests on the word, and its words. -/

namespace Sys2Proof

theorem and_full_mask (w : CmdWord) : w &&& 0xFFFFFFFF = w := BitVec.and_allOnes

/-- A row whose mask has every bit selects its one word. -/
theorem selects_full (op : CmdOp) (value w : CmdWord) :
    (CmdRow.mk op value 0xFFFFFFFF).selects w = decide (w = value) := by
  rw [CmdRow.selects, and_full_mask]

/-- Why a word that selects no row is illegal. -/
def illegalReason (w : CmdWord) : DecodeError :=
  if commandTable.any fun r => decide (cmdopOf r.value = cmdopOf w) then .reservedBits else .reservedCmdop

/-- The command decoder as a chain of tests (30_encoding.md R94). -/
theorem decodeCommand_eq (c : Command) :
    decodeCommand c =
      if c.word = 0x10000000 then .ok .openSess
      else if c.word = 0x20000000 then .ok .closeSess
      else if c.word &&& 0xF10FFFFF = 0x30000000 then .ok (CmdOp.encode.instr c)
      else if c.word = 0x40000000 then .ok (.append c.data)
      else if c.word = 0x50000000 then .ok .decode
      else if c.word = 0x60000000 then .ok .recv
      else if c.word = 0x70000000 then .ok (.consume c.n)
      else if c.word = 0x80000000 then .ok .status
      else .error (illegalReason c.word) := by
  have hs : (CmdRow.mk .encode 0x30000000 0xF10FFFFF).selects c.word
      = decide (c.word &&& 0xF10FFFFF = 0x30000000) := rfl
  unfold decodeCommand
  rw [commandTable]
  simp only [List.find?, selects_full, hs]
  by_cases h1 : c.word = 0x10000000
  · simp [h1, CmdOp.instr]
  by_cases h2 : c.word = 0x20000000
  · simp [h2, CmdOp.instr]
  by_cases h3 : c.word &&& 0xF10FFFFF = 0x30000000
  · simp only [h1, h2, h3, decide_true, decide_false, if_true, if_false]
  by_cases h4 : c.word = 0x40000000
  · simp [h4, CmdOp.instr]
  by_cases h5 : c.word = 0x50000000
  · simp [h5, CmdOp.instr]
  by_cases h6 : c.word = 0x60000000
  · simp [h6, CmdOp.instr]
  by_cases h7 : c.word = 0x70000000
  · simp [h7, CmdOp.instr]
  by_cases h8 : c.word = 0x80000000
  · simp [h8, CmdOp.instr]
  simp only [h1, h2, h3, h4, h5, h6, h7, h8, decide_false, if_false]
  rfl

/-- The chain with the tuple written out. (Cite this one at a literal word: the tests are then on closed numbers.) -/
theorem decodeCommand_mk (w : CmdWord) (data : List Byte) (key : KeyWord) (n : Count) :
    decodeCommand ⟨w, data, key, n⟩ =
      if w = 0x10000000 then .ok .openSess
      else if w = 0x20000000 then .ok .closeSess
      else if w &&& 0xF10FFFFF = 0x30000000 then .ok (CmdOp.encode.instr ⟨w, data, key, n⟩)
      else if w = 0x40000000 then .ok (.append data)
      else if w = 0x50000000 then .ok .decode
      else if w = 0x60000000 then .ok .recv
      else if w = 0x70000000 then .ok (.consume n)
      else if w = 0x80000000 then .ok .status
      else .error (illegalReason w) :=
  decodeCommand_eq ⟨w, data, key, n⟩

/-- An ENCODE word is no other row's word. -/
theorem decodeCommand_encode {c : Command} (h : c.word &&& 0xF10FFFFF = 0x30000000) :
    decodeCommand c = .ok (CmdOp.encode.instr c) := by
  have h1 : c.word ≠ 0x10000000 := by intro e; rw [e] at h; exact absurd h (by decide)
  have h2 : c.word ≠ 0x20000000 := by intro e; rw [e] at h; exact absurd h (by decide)
  rw [decodeCommand_eq, if_neg h1, if_neg h2, if_pos h]

/-- The fields of the ENCODE word (30_encoding.md R92). -/
theorem encodeWord_fields (fin msk mkv : Bool) (opc : Opcode) :
    (encodeWord fin msk mkv opc).getLsbD 27 = fin ∧ (encodeWord fin msk mkv opc).getLsbD 26 = msk ∧
    (encodeWord fin msk mkv opc).getLsbD 25 = mkv ∧ (encodeWord fin msk mkv opc).extractLsb' 20 4 = opc := by
  cases fin <;> cases msk <;> cases mkv <;> revert opc <;> decide

end Sys2Proof
end

