-- ==== Sys2Proof/Laws/Ops.lean ====
section
/-! SUPPORT. What each shared operation can do, said once: the checks, ending a command, one decode attempt, and the
meanings that use them. -/

namespace Sys2Proof.Machine

@[simp] theorem respond_eq (st : Status) (cause : BitVec 2) (f : ResponseFields) (s : State) :
    respond st cause f s = .next (reply st cause f s) := rfl

@[simp] theorem raise_eq (st : Status) (cause : BitVec 2) (s : State) : raise st cause s = .next (reply st cause {} s) := rfl

@[simp] theorem raiseProtocol_eq (c : ProtoCause) (s : State) :
    raiseProtocol c s = .next (reply .protocolError (protoCode c) {} (setLatch c s)) := rfl

theorem whenOpen_closed {s : State} (h : s.sess = .closed) (k : Result) :
    whenOpen s k = .next (reply .notOpen 0 {} s) := by
  simp [whenOpen, h]

theorem whenOpen_opened {s : State} (h : s.sess = .opened) (k : Result) : whenOpen s k = k := by
  simp [whenOpen, h]

theorem whenUnlatched_set {s : State} (h : s.perr = true) (k : Result) :
    whenUnlatched s k = .next (reply .protocolError s.pcause {} s) := by
  simp [whenUnlatched, h]

theorem whenUnlatched_clear {s : State} (h : s.perr = false) (k : Result) : whenUnlatched s k = k := by
  simp [whenUnlatched, h]

/-- One decode attempt past its checks: the outcome of the decoder decides (41_decode.md R184, R186). -/
theorem attemptFrame_open {s : State} (ho : s.sess = .opened) (hp : s.perr = false) (maxLen : Nat)
    (taken : DecodedFrame → Nat) :
    attemptFrame maxLen taken s =
      match decodeFrame maxLen s.rxbuf with
      | .needMore => .next (reply .needMore 0 {} s)
      | .perror c => .next (reply .protocolError (protoCode c) {} (setLatch c s))
      | .frame d => .next (reply .ok 0 (frameFields d) (rxDrop (taken d) s))
      | .badRead => .fault .readBeyondRxbuf := by
  rw [attemptFrame, whenOpen_opened ho, whenUnlatched_clear hp]
  cases decodeFrame maxLen s.rxbuf <;> rfl

/-- Receiving a frame past its checks. -/
theorem receiveFrame_open {s : State} (ho : s.sess = .opened) (hp : s.perr = false) (maxLen : Nat) (opc : Opcode)
    (f : WireFrame) :
    receiveFrame maxLen opc f s =
      if overCap maxLen f.payload.length = true then
        .next (reply .protocolError (protoCode .lenOverCap) {} (setLatch .lenOverCap s))
      else .next (reply .ok 0 (frameFields (decodedOf opc f)) (rxDrop f.total s)) := by
  rw [receiveFrame, whenOpen_opened ho, whenUnlatched_clear hp]
  rfl

/-! ## The inversion of `exec` -/

/-- How a meaning can end at a state, with its conditions: its status, cause and response fields, and the state its
response is added to. -/
inductive Ends (i : Instr) (s : State) : Status → BitVec 2 → ResponseFields → State → Prop where
  | notOpen (hi : i ≠ .openSess) (ho : s.sess = .closed) : Ends i s .notOpen 0 {} s
  | stateError (hi : i = .openSess) (ho : s.sess = .opened) : Ends i s .stateError 0 {} s
  | latched (hi : answersFrame i = true ∨ ∃ n, i = .consume n) (ho : s.sess = .opened) (hp : s.perr = true) :
      Ends i s .protocolError s.pcause {} s
  | needMore (hi : answersFrame i = true) (ho : s.sess = .opened) (hp : s.perr = false) : Ends i s .needMore 0 {} s
  | newError (c : ProtoCause) (hi : answersFrame i = true) (ho : s.sess = .opened) (hp : s.perr = false) :
      Ends i s .protocolError (protoCode c) {} (setLatch c s)
  | inputError (c : InputCause) (hi : ∃ fin opc msk key data, i = .encode fin opc msk key data) :
      Ends i s .inputError (inputCode c) {} s
  | overflow (data : List Byte) (hi : i = .append data) (ho : s.sess = .opened)
      (hf : admits Config.rxbufCap (s.rxbuf.length + data.length) = false) : Ends i s .overflow 0 {} s
  | openIt (hi : i = .openSess) (ho : s.sess = .closed) : Ends i s .ok 0 {} (clearBlock .opened s)
  | closeIt (hi : i = .closeSess) (ho : s.sess = .opened) : Ends i s .ok 0 {} (clearBlock .closed s)
  | status (hi : i = .status) : Ends i s .ok 0 {} s
  | encoded (out : List Byte) (hi : ∃ fin opc msk key data, i = .encode fin opc msk key data) :
      Ends i s .ok 0 { out := some out } s
  | appended (data : List Byte) (hi : i = .append data) (ho : s.sess = .opened)
      (hf : admits Config.rxbufCap (s.rxbuf.length + data.length) = true) : Ends i s .ok 0 {} (rxAppend data s)
  | frame (d : DecodedFrame) (k : Nat) (hi : answersFrame i = true) (ho : s.sess = .opened) (hp : s.perr = false)
      (hd : FrameOk d) (hk : i = .decode → k = 0) : Ends i s .ok 0 (frameFields d) (rxDrop k s)
  | counted (n : Count) (hi : i = .consume n) (ho : s.sess = .opened) (hp : s.perr = false) :
      Ends i s .ok 0 { count := some (consumeCount n s.rxbuf) } (rxDrop (consumeCount n s.rxbuf) s)

/-- An operation answers with one of the ends. -/
def Answers (i : Instr) (s : State) (o : Result) : Prop :=
  ∀ t, o = .next t → ∃ st cause f u, t = reply st cause f u ∧ Ends i s st cause f u

theorem answers_reply {i : Instr} {s u : State} {st : Status} {cause : BitVec 2} {f : ResponseFields}
    (h : Ends i s st cause f u) : Answers i s (.next (reply st cause f u)) :=
  fun _ ht => ⟨st, cause, f, u, (Host.Outcome.next.inj ht).symm, h⟩

theorem answers_whenOpen {i : Instr} {s : State} {k : Result} (hi : i ≠ .openSess)
    (h : s.sess = .opened → Answers i s k) : Answers i s (whenOpen s k) := by
  cases ho : s.sess with
  | closed => rw [whenOpen_closed ho]; exact answers_reply (.notOpen hi ho)
  | opened => rw [whenOpen_opened ho]; exact h ho

theorem answers_whenUnlatched {i : Instr} {s : State} {k : Result}
    (hi : answersFrame i = true ∨ ∃ n, i = .consume n) (ho : s.sess = .opened)
    (h : s.perr = false → Answers i s k) : Answers i s (whenUnlatched s k) := by
  cases hp : s.perr with
  | true => rw [whenUnlatched_set hp]; exact answers_reply (.latched hi ho hp)
  | false => rw [whenUnlatched_clear hp]; exact h hp

theorem ne_of_answersFrame {i : Instr} (h : answersFrame i = true) : i ≠ .openSess := by
  rintro rfl; cases h

theorem answers_attemptFrame {i : Instr} {s : State} {maxLen : Nat} {taken : DecodedFrame → Nat}
    (hi : answersFrame i = true) (hk : i = .decode → ∀ d, taken d = 0) :
    Answers i s (attemptFrame maxLen taken s) := by
  refine answers_whenOpen (ne_of_answersFrame hi) fun ho => ?_
  refine answers_whenUnlatched (.inl hi) ho fun hp => ?_
  cases hd : decodeFrame maxLen s.rxbuf with
  | needMore => exact answers_reply (.needMore hi ho hp)
  | perror c => exact answers_reply (.newError c hi ho hp)
  | frame d => exact answers_reply (.frame d _ hi ho hp (frameOk_of_decodeFrame hd) fun h => hk h d)
  | badRead => intro t ht; cases ht

theorem answers_receiveFrame {i : Instr} {s : State} {maxLen : Nat} (opc : Opcode) (f : WireFrame)
    (hi : answersFrame i = true) (hd : i ≠ .decode) : Answers i s (receiveFrame maxLen opc f s) := by
  refine answers_whenOpen (ne_of_answersFrame hi) fun ho => ?_
  refine answers_whenUnlatched (.inl hi) ho fun hp => ?_
  split
  · exact answers_reply (.newError _ hi ho hp)
  · exact answers_reply (.frame _ _ hi ho hp (frameOk_decodedOf opc f) fun h => absurd h hd)

/-- Everything a meaning can do: a next state is one of the ends with its response added. -/
theorem exec_answers (i : Instr) (s : State) : Answers i s (exec i s) := by
  cases i with
  | openSess =>
    cases ho : s.sess with
    | closed => simp only [exec, execOpen, ho]; exact answers_reply (.openIt rfl ho)
    | opened => simp only [exec, execOpen, ho]; exact answers_reply (.stateError rfl ho)
  | closeSess => exact answers_whenOpen (by simp) fun ho => answers_reply (.closeIt rfl ho)
  | encode fin opc msk key data =>
    simp only [exec, execEncode]
    split
    · exact answers_reply (.inputError _ ⟨_, _, _, _, _, rfl⟩)
    · unfold encodeMasked
      split
      · exact answers_reply (.inputError _ ⟨_, _, _, _, _, rfl⟩)
      · exact answers_reply (.encoded _ ⟨_, _, _, _, _, rfl⟩)
  | append data =>
    refine answers_whenOpen (by simp) fun ho => ?_
    rw [rxbufFits_eq_admits]
    split
    · rename_i hf; exact answers_reply (.appended data rfl ho hf)
    · rename_i hf; exact answers_reply (.overflow data rfl ho (by simpa using hf))
  | decode => exact answers_attemptFrame rfl fun _ _ => rfl
  | recv => exact answers_attemptFrame rfl fun h => by cases h
  | consume n =>
    refine answers_whenOpen (by simp) fun ho => ?_
    exact answers_whenUnlatched (.inr ⟨n, rfl⟩) ho fun hp => answers_reply (.counted n rfl ho hp)
  | status => exact answers_reply (.status rfl)
  | frameContinuation f => exact answers_receiveFrame 0 f rfl (by simp)
  | frameText f => exact answers_receiveFrame 1 f rfl (by simp)
  | frameBinary f => exact answers_receiveFrame 2 f rfl (by simp)
  | frameRsvd3 f => exact answers_receiveFrame 3 f rfl (by simp)
  | frameRsvd4 f => exact answers_receiveFrame 4 f rfl (by simp)
  | frameRsvd5 f => exact answers_receiveFrame 5 f rfl (by simp)
  | frameRsvd6 f => exact answers_receiveFrame 6 f rfl (by simp)
  | frameRsvd7 f => exact answers_receiveFrame 7 f rfl (by simp)
  | frameClose f => exact answers_receiveFrame 8 f rfl (by simp)
  | framePing f => exact answers_receiveFrame 9 f rfl (by simp)
  | framePong f => exact answers_receiveFrame 10 f rfl (by simp)
  | frameRsvd11 f => exact answers_receiveFrame 11 f rfl (by simp)
  | frameRsvd12 f => exact answers_receiveFrame 12 f rfl (by simp)
  | frameRsvd13 f => exact answers_receiveFrame 13 f rfl (by simp)
  | frameRsvd14 f => exact answers_receiveFrame 14 f rfl (by simp)
  | frameRsvd15 f => exact answers_receiveFrame 15 f rfl (by simp)

/-- A frame row's meaning by its opcode. -/
theorem exec_frameInstr (opc : Opcode) (f : WireFrame) (s : State) :
    exec (frameInstr opc f) s = receiveFrame Config.maxPayloadLen opc f s := by
  obtain ⟨⟨n, hn⟩⟩ := opc
  interval_cases n <;> rfl

/-! ## The form of memory -/

theorem reset_memory_wf : Memory.wf State.reset = true := by decide

theorem rxDrop_memory_wf {s : State} (k : Nat) (h : Memory.wf s = true) : Memory.wf (rxDrop k s) = true := by
  simp only [Memory.wf, rxbufFits_eq_admits] at *
  exact admits_mono (by simp) h

theorem rxAppend_memory_wf {data : List Byte} {s : State}
    (h : rxbufFits (s.rxbuf.length + data.length) = true) : Memory.wf (rxAppend data s) = true := by
  simpa [Memory.wf] using h

theorem clearBlock_memory_wf (x : Session) (s : State) : Memory.wf (clearBlock x s) = true := by
  simp [Memory.wf, rxbufFits]

theorem setLatch_memory_wf (c : ProtoCause) {s : State} (h : Memory.wf s = true) : Memory.wf (setLatch c s) = true := h

theorem reply_memory_wf (st : Status) (cause : BitVec 2) (f : ResponseFields) {s : State} (h : Memory.wf s = true) :
    Memory.wf (reply st cause f s) = true := h

/-- The address and byte pairs of RXBUF are strictly rising from 0, with one pair for each offset (20_memory.md R60). -/
theorem cells_addresses (s : State) : (Memory.cells s).map Prod.fst = List.range s.rxbuf.length := by
  simp [Memory.cells, Function.comp_def, List.zipIdx_map_snd, List.range_eq_range']

end Sys2Proof.Machine
end

