-- ==== Sys2Proof/Laws/PerInstr.lean ====
section
/-! SUPPORT. The family EncodedForm: what the encoding of an instruction is, one lemma for each constructor. -/

namespace Sys2Proof.Laws

/-- A command is encoded as a command tuple whose word selects one row of 30_encoding.md R94; a frame row as the bytes
of its frame, as many as 30_encoding.md R104 says. -/
def EncodedForm.Statement (i : Instr) : Prop :=
  match encode i, i.frame? with
  | .command c, none => ∃ r ∈ commandTable, r.selects c.word = true
  | .wire bytes, some (_, f) => bytes.length = f.total
  | _, _ => False

theorem EncodedForm.openSess : EncodedForm.Statement .openSess :=
  ⟨_, List.getElem_mem (n := 0) (by decide), rfl⟩

theorem EncodedForm.closeSess : EncodedForm.Statement .closeSess :=
  ⟨_, List.getElem_mem (n := 1) (by decide), rfl⟩

/-- The ENCODE word keeps the fixed bits of its row. -/
theorem encodeWord_fixed_bits (fin msk mkv : Bool) (opc : Opcode) :
    encodeWord fin msk mkv opc &&& 0xF10FFFFF = 0x30000000 := by
  cases fin <;> cases msk <;> cases mkv <;> revert opc <;> decide

theorem EncodedForm.encode (fin : Bool) (opc : Opcode) (msk : Bool) (key : Option KeyWord) (data : List Byte) :
    EncodedForm.Statement (.encode fin opc msk key data) :=
  ⟨⟨.encode, 0x30000000, 0xF10FFFFF⟩, by simp [commandTable],
    decide_eq_true (encodeWord_fixed_bits fin msk key.isSome opc)⟩

theorem EncodedForm.append (data : List Byte) : EncodedForm.Statement (.append data) :=
  ⟨commandTable[3], List.getElem_mem (n := 3) (by decide), show commandTable[3].selects 0x40000000 = true by decide⟩

theorem EncodedForm.decode : EncodedForm.Statement .decode :=
  ⟨_, List.getElem_mem (n := 4) (by decide), rfl⟩

theorem EncodedForm.recv : EncodedForm.Statement .recv :=
  ⟨_, List.getElem_mem (n := 5) (by decide), rfl⟩

theorem EncodedForm.consume (n : Count) : EncodedForm.Statement (.consume n) :=
  ⟨commandTable[6], List.getElem_mem (n := 6) (by decide), show commandTable[6].selects 0x70000000 = true by decide⟩

theorem EncodedForm.status : EncodedForm.Statement .status :=
  ⟨_, List.getElem_mem (n := 7) (by decide), rfl⟩

theorem EncodedForm.frameContinuation (f : WireFrame) : EncodedForm.Statement (.frameContinuation f) := frameBytes_length _ f

theorem EncodedForm.frameText (f : WireFrame) : EncodedForm.Statement (.frameText f) := frameBytes_length _ f

theorem EncodedForm.frameBinary (f : WireFrame) : EncodedForm.Statement (.frameBinary f) := frameBytes_length _ f

theorem EncodedForm.frameRsvd3 (f : WireFrame) : EncodedForm.Statement (.frameRsvd3 f) := frameBytes_length _ f

theorem EncodedForm.frameRsvd4 (f : WireFrame) : EncodedForm.Statement (.frameRsvd4 f) := frameBytes_length _ f

theorem EncodedForm.frameRsvd5 (f : WireFrame) : EncodedForm.Statement (.frameRsvd5 f) := frameBytes_length _ f

theorem EncodedForm.frameRsvd6 (f : WireFrame) : EncodedForm.Statement (.frameRsvd6 f) := frameBytes_length _ f

theorem EncodedForm.frameRsvd7 (f : WireFrame) : EncodedForm.Statement (.frameRsvd7 f) := frameBytes_length _ f

theorem EncodedForm.frameClose (f : WireFrame) : EncodedForm.Statement (.frameClose f) := frameBytes_length _ f

theorem EncodedForm.framePing (f : WireFrame) : EncodedForm.Statement (.framePing f) := frameBytes_length _ f

theorem EncodedForm.framePong (f : WireFrame) : EncodedForm.Statement (.framePong f) := frameBytes_length _ f

theorem EncodedForm.frameRsvd11 (f : WireFrame) : EncodedForm.Statement (.frameRsvd11 f) := frameBytes_length _ f

theorem EncodedForm.frameRsvd12 (f : WireFrame) : EncodedForm.Statement (.frameRsvd12 f) := frameBytes_length _ f

theorem EncodedForm.frameRsvd13 (f : WireFrame) : EncodedForm.Statement (.frameRsvd13 f) := frameBytes_length _ f

theorem EncodedForm.frameRsvd14 (f : WireFrame) : EncodedForm.Statement (.frameRsvd14 f) := frameBytes_length _ f

theorem EncodedForm.frameRsvd15 (f : WireFrame) : EncodedForm.Statement (.frameRsvd15 f) := frameBytes_length _ f

end Sys2Proof.Laws
end

