-- ==== Sys2Proof/Laws/Step.lean ====
section
/-! SUPPORT. A step by its input, and the inversion of a step. -/

namespace Sys2Proof.Machine

theorem step_no_input {s : State} (h : s.port = []) : step s = .next s := by
  simp [step, nextInput, h, idle]

theorem step_reset_event {s : State} {rest : List HostInput} (h : s.port = .reset :: rest) :
    step s = .next (clearBlock .closed { s with port := rest }) := by
  simp [step, nextInput, h, resetEvent]

theorem step_command {s : State} {c : Command} {rest : List HostInput} (h : s.port = .command c :: rest) :
    step s =
      match decodeCommand c with
      | .ok i => exec i { s with port := rest }
      | .error _ => .next (reply .illegalCmd 0 {} { s with port := rest }) := by
  simp only [step, nextInput, h]
  cases decodeCommand c <;> rfl

/-- The inversion of a step: nothing, a reset, the end of a decoded instruction, or ILLEGAL_CMD. -/
theorem step_next {s t : State} (h : step s = .next t) :
    (s.port = [] ∧ t = s) ∨
    (∃ rest, s.port = .reset :: rest ∧ t = clearBlock .closed { s with port := rest }) ∨
    (∃ c rest i st cause f u, s.port = .command c :: rest ∧ decodeCommand c = .ok i ∧ t = reply st cause f u ∧
      Ends i { s with port := rest } st cause f u) ∨
    (∃ c rest e, s.port = .command c :: rest ∧ decodeCommand c = .error e ∧
      t = reply .illegalCmd 0 {} { s with port := rest }) := by
  match hp : s.port with
  | [] =>
    rw [step_no_input hp] at h
    exact .inl ⟨rfl, (Host.Outcome.next.inj h).symm⟩
  | .reset :: rest =>
    rw [step_reset_event hp] at h
    exact .inr (.inl ⟨rest, rfl, (Host.Outcome.next.inj h).symm⟩)
  | .command c :: rest =>
    rw [step_command hp] at h
    cases hd : decodeCommand c with
    | ok i =>
      rw [hd] at h
      obtain ⟨st, cause, f, u, ht, he⟩ := exec_answers i _ t h
      exact .inr (.inr (.inl ⟨c, rest, i, st, cause, f, u, rfl, hd, ht, he⟩))
    | error e =>
      rw [hd] at h
      exact .inr (.inr (.inr ⟨c, rest, e, rfl, hd, (Host.Outcome.next.inj h).symm⟩))

/-! ## Runs (the host's `Core.run`) -/

theorem core_run_zero (s : State) : Host.Core.run Sys2Proof.core 0 s = .next s := rfl

theorem core_run_succ {s t : State} (h : step s = .next t) (n : Nat) :
    Host.Core.run Sys2Proof.core (n + 1) s = Host.Core.run Sys2Proof.core n t := by
  have hc : Sys2Proof.core.step s = .next t := h
  refine (Host.Core.run.eq_2 Sys2Proof.core s n).trans ?_
  rw [hc]

end Sys2Proof.Machine
end

