-- ==== Sys2Proof/Tests/Slice0.lean ====
section
/-! SUPPORT. Tests on small states, and for each statement with hypotheses a theorem that something meets them. The
expected values are those of spec/95_test_vectors.md (the vector is named at each test) or are worked by hand from
the encoding tables of spec/30_encoding.md. -/

namespace Sys2Proof.Tests

open Sys2Proof Sys2Proof.Machine

/-- An open session with a clear latch. -/
def openWith (buf : List Byte) : State :=
  { sess := .opened, rxbuf := buf, perr := false, pcause := 0, port := [], responses := [] }

/-- An open session with a latched error. -/
def latched (cause : BitVec 2) (buf : List Byte) : State :=
  { sess := .opened, rxbuf := buf, perr := true, pcause := cause, port := [], responses := [] }

/-- A state whose next input is a command word with empty operands. -/
def issuing (word : CmdWord) (s : State) : State := { s with port := [.command (plainCommand word)] }

/-- The next state of an outcome. -/
def nextOf (o : Result) : Option State :=
  match o with
  | .next t => some t
  | .fault _ => none
  | .refused _ => none

/-- The one response of an outcome, and the buffer after it. -/
def seen (o : Result) : Option (Response × List Byte) :=
  (nextOf o).bind fun t => t.responses.getLast?.map fun r => (r, t.rxbuf)

/-- The `out` field of an outcome. -/
def outOf (o : Result) : Option (List Byte) := (seen o).bind fun p => p.1.out

/-- The instruction a result of a decoder holds. -/
def instrOf {ε : Type} (r : Except ε Instr) : Option Instr := r.toOption

/-- The instruction and the rest that the wire decoder answers. -/
def wireOf (bytes : List Byte) : Option (Instr × List Byte) := (decodeWire bytes).toOption

/-- The reason a decoder rejects. -/
def errorOf {α : Type} (r : Except DecodeError α) : Option DecodeError :=
  match r with
  | .ok _ => none
  | .error e => some e

/-! ## Well-formedness: ill-formed terms are refused -/

/-- LEN7 holds at most 125 (30_encoding.md R103). -/
theorem test_wf_len7_refuses_126 : (Instr.frameText ⟨true, .len7, none, List.replicate 126 0⟩).wf = false := by
  simp only [Instr.wf, Instr.frame?, WireFrame.wf, List.length_replicate, LenForm.bound]; decide

theorem test_wf_len7_admits_125 : (Instr.frameText ⟨true, .len7, none, List.replicate 125 0⟩).wf = true := by
  simp only [Instr.wf, Instr.frame?, WireFrame.wf, List.length_replicate, LenForm.bound]; decide

/-- LEN16 holds at most 65535. -/
theorem test_wf_len16_refuses_65536 :
    (Instr.frameBinary ⟨true, .len16, none, List.replicate 65536 0⟩).wf = false := by
  simp only [Instr.wf, Instr.frame?, WireFrame.wf, List.length_replicate, LenForm.bound]; decide

/-- LEN64 holds at most 2^64 - 1. -/
theorem test_wf_len64_refuses_2_64 :
    (Instr.framePong ⟨true, .len64, none, List.replicate (2 ^ 64) 0⟩).wf = false := by
  simp only [Instr.wf, Instr.frame?, WireFrame.wf, List.length_replicate, LenForm.bound]; decide

/-- A quoted string is printable ASCII (R111). -/
theorem test_wf_text_refuses_newline : (AsmLine.append (.text ['\n'])).wf = false := by decide

theorem test_wf_text_in_join_checked : (ByteExpr.join (.hex [0x00]) (.text ['\t'])).wf = false := by decide

/-! ## Decoding: words written out from the spec's encodings -/

/-- CMDOP 0x1, R94. -/
theorem test_decode_open : instrOf (decodeCommand (plainCommand 0b00010000000000000000000000000000)) = some .openSess := by decide

theorem test_decode_close : instrOf (decodeCommand (plainCommand 0b00100000000000000000000000000000)) = some .closeSess := by decide

/-- `0011 F M K 0 OOOO`, F = 1, M = 1, K = 1, OOOO = 9 (R92, R113). -/
theorem test_decode_encode_fields :
    instrOf (decodeCommand ⟨0b00111110100100000000000000000000, [0x61, 0x62, 0x63, 0x64], 0x61616161, 7⟩)
      = some (.encode true 9 true (some 0x61616161) [0x61, 0x62, 0x63, 0x64]) := by decide

/-- M = 1, K = 0, OOOO = 2: no key is supplied whatever KEY holds (R113, E4). -/
theorem test_decode_encode_no_key :
    instrOf (decodeCommand ⟨0b00110100001000000000000000000000, [], 0xDEADBEEF, 0⟩)
      = some (.encode false 2 true none []) := by decide

theorem test_decode_append :
    instrOf (decodeCommand ⟨0b01000000000000000000000000000000, [0x81], 0, 0⟩) = some (.append [0x81]) := by decide

theorem test_decode_decode : instrOf (decodeCommand (plainCommand 0b01010000000000000000000000000000)) = some .decode := by decide

theorem test_decode_recv : instrOf (decodeCommand (plainCommand 0b01100000000000000000000000000000)) = some .recv := by decide

theorem test_decode_consume :
    instrOf (decodeCommand ⟨0b01110000000000000000000000000000, [], 0, 3⟩) = some (.consume 3) := by decide

theorem test_decode_status : instrOf (decodeCommand (plainCommand 0b10000000000000000000000000000000)) = some .status := by decide

/-- CMDOP 0 and 9 to 15 are reserved (R110, S10). -/
theorem test_decode_reserved_cmdop :
    ([0x0, 0x9, 0xA, 0xB, 0xC, 0xD, 0xE, 0xF] : List (BitVec 4)).map (fun k =>
      errorOf (decodeCommand (plainCommand (k ++ 0#28)))) = List.replicate 8 (some .reservedCmdop) := by decide

/-- A reserved bit is 1 (R93, R253, S11, S13, E13, E14). -/
theorem test_decode_reserved_bits :
    ([0x10000001, 0x31000000, 0x30000001, 0x39100000, 0x38100001, 0x84000000] : List CmdWord).map (fun w =>
      errorOf (decodeCommand (plainCommand w))) = List.replicate 6 (some .reservedBits) := by decide

/-- The sixteen frame rows: FIN = 1, RSV = 000, OPCODE, then MASK = 0, LEN7 = 0 (R100 to R102, R107). -/
theorem test_decode_frame_rows :
    ([0b10000000, 0b10000001, 0b10000010, 0b10000011, 0b10000100, 0b10000101, 0b10000110, 0b10000111,
      0b10001000, 0b10001001, 0b10001010, 0b10001011, 0b10001100, 0b10001101, 0b10001110, 0b10001111] : List Byte).map
        (fun b => wireOf [b, 0b00000000]) =
      ([.frameContinuation, .frameText, .frameBinary, .frameRsvd3, .frameRsvd4, .frameRsvd5, .frameRsvd6, .frameRsvd7,
        .frameClose, .framePing, .framePong, .frameRsvd11, .frameRsvd12, .frameRsvd13, .frameRsvd14,
        .frameRsvd15] : List (WireFrame → Instr)).map fun row => some (row ⟨true, .len7, none, []⟩, []) := by decide

/-- A masked ping (V1) with a byte after it. -/
theorem test_decode_wire_masked :
    wireOf [0x89, 0x84, 0x61, 0x61, 0x61, 0x61, 0x00, 0x03, 0x02, 0x05, 0x81]
      = some (.framePing ⟨true, .len7, some ⟨0x61, 0x61, 0x61, 0x61⟩, [0x61, 0x62, 0x63, 0x64]⟩, [0x81]) := by decide

/-- A longer form than needed (F8), FIN = 0. -/
theorem test_decode_wire_len16 :
    wireOf [0x01, 0x7E, 0x00, 0x05, 0x48, 0x65, 0x6C, 0x6C, 0x6F]
      = some (.frameText ⟨false, .len16, none, [0x48, 0x65, 0x6C, 0x6C, 0x6F]⟩, []) := by decide

/-- RSV1, RSV2, RSV3 each refused (R108, V6), and a frame cut short (F16). -/
theorem test_decode_wire_rejects :
    ([[0xC1, 0x00], [0xA1, 0x00], [0x91, 0x00], [0x81, 0x81, 0x01, 0x02]] : List (List Byte)).map (fun b =>
      errorOf (decodeWire b)) = [some .rsvNonzero, some .rsvNonzero, some .rsvNonzero, some .truncated] := by decide

/-- The encoder gives the same words and bytes (R94, R113, E2). -/
theorem test_encode_words :
    [Instr.openSess, .closeSess, .append [0x41], .decode, .recv, .consume 5, .status,
     .encode true 1 true (some 0x01020304) [], .frameText ⟨true, .len7, some ⟨1, 2, 3, 4⟩, []⟩].map encode =
    [.command ⟨0x10000000, [], 0, 0⟩, .command ⟨0x20000000, [], 0, 0⟩, .command ⟨0x40000000, [0x41], 0, 0⟩,
     .command ⟨0x50000000, [], 0, 0⟩, .command ⟨0x60000000, [], 0, 0⟩, .command ⟨0x70000000, [], 0, 5⟩,
     .command ⟨0x80000000, [], 0, 0⟩, .command ⟨0x3E100000, [], 0x01020304, 0⟩,
     .wire [0x81, 0x80, 0x01, 0x02, 0x03, 0x04]] := by decide

/-! ## The frame decoder -/

/-- F1 to F7, F11, F12, F16: where the answer is NEED_MORE. -/
theorem test_frame_decoder_need_more :
    ([[], [0x81], [0x81, 0x7E, 0x00], [0x81, 0x7E, 0x00, 0x7E], [0x81, 0xFE, 0x00, 0x7E, 0x01, 0x02, 0x03],
      [0x82, 0x7F, 0, 0, 0, 0, 0, 1, 0], [0x82, 0x7F, 0, 0, 0, 0, 0, 1, 0, 0], [0x81, 0x81, 0x01, 0x02],
      [0xC1]] : List (List Byte)).map (decodeFrame 65536) = List.replicate 9 .needMore := by decide

/-- F10, F14, F22 and the order of V6's last row. -/
theorem test_frame_decoder_errors :
    ([[0x82, 0x7F, 0, 0, 0, 0, 0, 1, 0, 1], [0x82, 0x7F, 0x80, 0, 0, 0, 0, 0, 0, 0], [0xC1, 0x7F],
      [0xC2, 0x7F, 0, 0, 0, 0, 0, 1, 0, 1]] : List (List Byte)).map (decodeFrame 65536) =
    [.perror .lenOverCap, .perror .lenOverCap, .perror .rsvNonzero, .perror .rsvNonzero] := by decide

/-- F13: bit 63 of the length is accepted under the largest cap. -/
theorem test_frame_decoder_bit63 :
    decodeFrame (2 ^ 64 - 1) [0x82, 0x7F, 0x80, 0, 0, 0, 0, 0, 0, 0] = .needMore := by decide

/-- F4, F9, F15, F18, F20. -/
theorem test_frame_decoder_frames :
    ([[0x81, 0x00, 0xFF, 0xFF], [0x81, 0x7F, 0, 0, 0, 0, 0, 0, 0, 1, 0x41],
      [0x81, 0x85, 0x12, 0x34, 0x56, 0x78, 0x5A, 0x51, 0x3A, 0x14, 0x7D],
      [0x81, 0xFF, 0, 0, 0, 0, 0, 0, 0, 0, 1, 2, 3, 4], [0x83, 0x00]] : List (List Byte)).map (decodeFrame 65536) =
    [.frame ⟨true, 1, false, none, [], 2, .len7⟩, .frame ⟨true, 1, false, none, [0x41], 11, .len64⟩,
     .frame ⟨true, 1, true, some ⟨0x12, 0x34, 0x56, 0x78⟩, [0x48, 0x65, 0x6C, 0x6C, 0x6F], 11, .len7⟩,
     .frame ⟨true, 1, true, some ⟨1, 2, 3, 4⟩, [], 14, .len64⟩, .frame ⟨true, 3, false, none, [], 2, .len7⟩] := by decide

/-! ## The meanings -/

/-- S2. -/
theorem test_open : seen (execOpen State.reset) =
    some ({ status := .ok, cause := 0, state := 0x00000001, rxlen := 0 }, []) := by decide

/-- S3. -/
theorem test_open_twice : seen (execOpen (openWith [0x81])) =
    some ({ status := .stateError, cause := 0, state := 0x00000001, rxlen := 1 }, [0x81]) := by decide

/-- S4 and S6: CLOSE empties the buffer and clears the latch. -/
theorem test_close : seen (execClose (latched 2 [0x81])) =
    some ({ status := .ok, cause := 0, state := 0x00000000, rxlen := 0 }, []) := by decide

/-- S5. -/
theorem test_close_closed : seen (execClose State.reset) =
    some ({ status := .notOpen, cause := 0, state := 0x00000000, rxlen := 0 }, []) := by decide

/-- E10, E7, E3, E6, E11. -/
theorem test_encode_outputs :
    [outOf (execEncode true 1 true (some 0x12345678) [0x48, 0x65, 0x6C, 0x6C, 0x6F] State.reset),
     outOf (execEncode true 1 true (some 0x0A0B0C0D) [0, 0, 0, 0, 0] State.reset),
     outOf (execEncode false 0 false none [0x48, 0x65, 0x6C] State.reset),
     outOf (execEncode true 1 false (some 0xDEADBEEF) [0x41] (latched 1 [])),
     outOf (execEncode true 10 true (some 0xFFFFFFFF) [0x00, 0xFF] State.reset)] =
    [some [0x81, 0x85, 0x12, 0x34, 0x56, 0x78, 0x5A, 0x51, 0x3A, 0x14, 0x7D],
     some [0x81, 0x85, 0x0A, 0x0B, 0x0C, 0x0D, 0x0A, 0x0B, 0x0C, 0x0D, 0x0A], some [0x00, 0x03, 0x48, 0x65, 0x6C],
     some [0x81, 0x01, 0x41], some [0x8A, 0x82, 0xFF, 0xFF, 0xFF, 0xFF, 0xFF, 0x00]] := by decide

/-- E4. -/
theorem test_encode_mask_missing : seen (execEncode false 2 true none [] State.reset) =
    some ({ status := .inputError, cause := 1, state := 0x00000000, rxlen := 0 }, []) := by decide

/-- E12: 200 bytes take the 16-bit form. -/
theorem test_encode_len16 : (outOf (execEncode false 9 false none (List.replicate 200 0x41) State.reset)).map
    (fun o => (o.take 4, o.length)) = some ([0x09, 0x7E, 0x00, 0xC8], 204) := by decide +kernel

/-- A5: an APPEND while the latch is set. -/
theorem test_append_latched : seen (execAppend [0x81, 0x00] (latched 1 [0xA1, 0x00])) =
    some ({ status := .ok, cause := 0, state := 0x00000007, rxlen := 4 }, [0xA1, 0x00, 0x81, 0x00]) := by decide

/-- A3 and A4: capacity 4, exactly full, and one byte over. -/
theorem test_append_capacity :
    seen (appendChecked (admits (.finite 4) 4) [0x41, 0x81] (openWith [0x81, 0x01])) =
      some ({ status := .ok, cause := 0, state := 0x00000001, rxlen := 4 }, [0x81, 0x01, 0x41, 0x81]) ∧
    seen (appendChecked (admits (.finite 4) 5) [0x41, 0x81, 0x00] (openWith [0x81, 0x01])) =
      some ({ status := .overflow, cause := 0, state := 0x00000001, rxlen := 2 }, [0x81, 0x01]) := by decide

/-- D1. -/
theorem test_decode_keeps_buffer : seen (execDecode (openWith [0x81, 0x01, 0x41, 0x81])) =
    some ({ status := .ok, cause := 0, state := 0x00000001, rxlen := 4, out := some [0x41], fin := some true,
            opc := some 1, masked := some false, len := some 1, consumed := some 3 },
          [0x81, 0x01, 0x41, 0x81]) := by decide

/-- D3, D5. -/
theorem test_decode_latches :
    seen (execDecode (openWith [0xC1, 0x00])) =
      some ({ status := .protocolError, cause := 1, state := 0x00000007, rxlen := 2 }, [0xC1, 0x00]) ∧
    seen (execDecode (latched 1 [0x81, 0x00])) =
      some ({ status := .protocolError, cause := 1, state := 0x00000007, rxlen := 2 }, [0x81, 0x00]) := by decide

/-- C7. -/
theorem test_recv_masked :
    seen (execRecv (openWith [0x89, 0x84, 0x61, 0x61, 0x61, 0x61, 0x00, 0x03, 0x02, 0x05, 0x81])) =
      some ({ status := .ok, cause := 0, state := 0x00000001, rxlen := 1, out := some [0x61, 0x62, 0x63, 0x64],
              fin := some true, opc := some 9, masked := some true, key := some ⟨0x61, 0x61, 0x61, 0x61⟩,
              len := some 4, consumed := some 10 }, [0x81]) := by decide

/-- C2 then C3: one frame at a time; C6. -/
theorem test_recv_one_frame_at_a_time :
    (seen (execRecv (openWith [0x81, 0x01, 0x41, 0x81, 0x01, 0x42]))).map Prod.snd = some [0x81, 0x01, 0x42] ∧
    seen (execRecv (openWith [0xA1, 0x00, 0x81, 0x00])) =
      some ({ status := .protocolError, cause := 1, state := 0x00000007, rxlen := 4 }, [0xA1, 0x00, 0x81, 0x00]) := by
  decide

/-- K1, K3, K4. -/
theorem test_consume :
    seen (execConsume 3 (openWith [0x81, 0x01, 0x41, 0x81])) =
      some ({ status := .ok, cause := 0, state := 0x00000001, rxlen := 1, count := some 3 }, [0x81]) ∧
    seen (execConsume 10 (openWith [0x81, 0x01, 0x41, 0x81])) =
      some ({ status := .ok, cause := 0, state := 0x00000001, rxlen := 0, count := some 4 }, []) ∧
    seen (execConsume 0xFFFFFFFFFFFFFFFF (openWith [])) =
      some ({ status := .ok, cause := 0, state := 0x00000001, rxlen := 0, count := some 0 }, []) := by decide

/-- K5. -/
theorem test_consume_latched : seen (execConsume 2 (latched 1 [0xA1, 0x00, 0x81, 0x00])) =
    some ({ status := .protocolError, cause := 1, state := 0x00000007, rxlen := 4 }, [0xA1, 0x00, 0x81, 0x00]) := by
  decide

/-- S8. -/
theorem test_status : seen (execStatus (openWith [0x81, 0x7E])) =
    some ({ status := .ok, cause := 0, state := 0x00000001, rxlen := 2 }, [0x81, 0x7E]) := by decide

/-- Each frame row on its own two-byte frame: the opcode it reports, and the frame leaves the buffer (C1, F20). -/
theorem test_frame_rows :
    ((List.range 16).map fun k =>
      (decodeTableWord 8 k).bind fun i =>
        (seen (exec i (openWith [BitVec.ofNat 8 k, 0, 0x81]))).map fun p => (p.1.status, p.1.opc, p.2)) =
    (List.range 16).map fun k => some (.ok, some (BitVec.ofNat 4 k), [0x81]) := by decide

/-! ## A step, and the word a step fetches -/

theorem test_step_no_input : nextOf (step State.reset) = some State.reset := by decide

/-- S10: 0x90000000 is illegal and changes nothing. -/
theorem test_step_illegal : seen (step (issuing 0x90000000 (openWith [0x81]))) =
    some ({ status := .illegalCmd, cause := 0, state := 0x00000001, rxlen := 1 }, [0x81]) := by decide

/-- S15: a reset returns no response and loses the buffer. -/
theorem test_step_reset : nextOf (step { latched 2 [0x81] with port := [.reset] }) = some State.reset := by decide

/-- Every command row's own value runs as the first instruction after reset. -/
theorem test_fetch_command_words :
    ([0x10000000, 0x20000000, 0x30000000, 0x40000000, 0x50000000, 0x60000000, 0x70000000, 0x80000000] : List Nat).map
      (fun w => (seen (step (State.reset.withFetchWord 32 w))).map fun p => p.1.status) =
    [some .ok, some .notOpen, some .ok, some .notOpen, some .notOpen, some .notOpen, some .notOpen, some .ok] := by decide

/-- Every frame row's value runs as the first instruction after reset. -/
theorem test_fetch_frame_words :
    (List.range 16).map (fun k => (seen (step (State.reset.withFetchWord 8 k))).map fun p => (p.1.status, p.1.opc)) =
    (List.range 16).map fun k => some (.ok, some (BitVec.ofNat 4 k)) := by decide

/-- V8: NEED_MORE, the timeout keeps the bytes; the rest arrives and the frame is returned (70_reset_and_hazards.md
R334, R335). -/
theorem test_host_timeout_and_retry :
    ((hostRecvFrame 3 [] (openWith [0x81, 0x05, 0x48, 0x65])).1,
     (hostRecvFrame 3 [] (openWith [0x81, 0x05, 0x48, 0x65])).2.2.rxbuf) = (.timeout, [0x81, 0x05, 0x48, 0x65]) ∧
    (match (hostRecvFrame 3 [[0x6C, 0x6C, 0x6F]] (openWith [0x81, 0x05, 0x48, 0x65])).1 with
     | .frame r => (r.out, r.consumed)
     | .failed _ | .peerClosed | .timeout | .roundsSpent | .stopped => (none, none)) =
      (some [0x48, 0x65, 0x6C, 0x6C, 0x6F], some 7) := by decide

/-- NOT_OPEN of RECV: failed, and the CLOSE after it changes nothing of the block (log entry 12). -/
theorem test_host_not_open :
    (match hostReceive 1 [] State.reset with
     | (.failed r, _, t) => (some r.status, t.sess)
     | (_, _, t) => (none, t.sess)) = (some .notOpen, .closed) := by decide

/-- R336: an empty read ends the procedure with no frame. -/
theorem test_host_peer_closed : (hostRecvFrame 3 [[]] (openWith [0x81])).1 = .peerClosed := by decide

/-- The host's other duties: boot with left-over bytes (R332, R333), CLOSE after a protocol error (R334, R341), and DECODE
then CONSUME (K1 after D1). -/
theorem test_host_boot_and_close :
    (hostBoot [0x81, 0x00] State.reset).map (fun p => (p.1.sess, p.1.rxbuf, p.2)) = some (.opened, [0x81, 0x00], []) ∧
    (hostBoot [] (openWith [])).isNone = true ∧
    (hostReceive 1 [] (openWith [0xA1, 0x00])).2.2.sess = .closed ∧
    (hostDecodeConsume (openWith [0x81, 0x01, 0x41, 0x81])).map (fun p => (p.1.out, p.2.rxbuf))
      = some (some [0x41], [0x81]) := by decide

/-- A count above N's range takes two CONSUMEs, and one within it one (log entry 17). -/
theorem test_host_consume :
    (hostConsume 3 (openWith [0x81, 0x01, 0x41, 0x81])).map (fun t => (t.rxbuf, t.responses.map (·.count)))
      = some ([0x81], [some 3]) ∧
    (hostConsume (2 ^ 64) (openWith [0x81])).map (fun t => (t.rxbuf, t.responses.map (·.count)))
      = some ([], [some 1, some 0]) := by decide

/-! ## The written form (30_encoding.md R111, R112) -/

/-- R113: `ENCODE 1, 9, 1, 61616161, "abcd"`, with a comment after it. -/
theorem test_read_encode :
    readLine "ENCODE 1, 9, 1, 61616161, \"abcd\" ; ping".toList =
      some (some (.encode true 9 true (some 0x61616161) (.text ['a', 'b', 'c', 'd']))) := by decide

/-- The bytes of P1's and A7's kind: a hex list, copies of a byte, and a string, joined; K4's N in hex; `-` as a key. -/
theorem test_read_operands :
    readLine ("APPEND ".toList ++ [Char.ofNat 0x7B] ++ "81 7E".toList ++ [Char.ofNat 0x7D, '+', Char.ofNat 0x7B] ++
      "00".toList ++ [Char.ofNat 0x7D] ++ "*3+\"A\"".toList) =
      some (some (.append (.join (.hex [0x81, 0x7E]) (.join (.copies 0 3) (.text ['A']))))) ∧
    readLine "CONSUME 0xFFFFFFFFFFFFFFFF".toList = some (some (.consume 0xFFFFFFFFFFFFFFFF)) ∧
    readLine ("ENC.FRAG 0xB, -, ".toList ++ [Char.ofNat 0x7B, Char.ofNat 0x7D]) =
      some (some (.encFrag 11 none (.hex []))) ∧
    readLine "; a comment".toList = some none ∧ readLine " ".toList = some none ∧ readLine "CONSUME 0x10000000000000000".toList = none ∧
    readLine "OPEN 1".toList = none ∧
    readLine "APPEND \"a\"b\"".toList = none := by decide

/-- P6's first line and a REOPEN, as the host issues them. -/
theorem test_assemble_program :
    (assembleProgram ["OPEN".toList, "REOPEN".toList]).map hostInputs =
      some [.command ⟨0x10000000, [], 0, 0⟩, .command ⟨0x20000000, [], 0, 0⟩, .command ⟨0x10000000, [], 0, 0⟩] := by
  decide

/-! ## Witnesses: for each statement with hypotheses, something meets all of them -/

/-- A masked text frame, `81 81 01 02 03 04 40`. -/
def someFrame : WireFrame := ⟨true, .len7, some ⟨1, 2, 3, 4⟩, [0x41]⟩

/-- Its bytes. -/
def someBytes : List Byte := [0x81, 0x81, 0x01, 0x02, 0x03, 0x04, 0x40]

/-- A command of this word with operands that no row reads all of. -/
def cmd (word : CmdWord) : Command := ⟨word, [0x81], 0x01020304, 3⟩

theorem witness_ParametersInRange : ∃ buf d, decodeFrame Config.maxPayloadLen buf = .frame d :=
  ⟨[0x81, 0x00], ⟨true, 1, false, none, [], 2, .len7⟩, by decide⟩

theorem witness_ResetEventClearsBlock : ∃ (s : State) (rest : List HostInput), s.port = .reset :: rest :=
  ⟨{ latched 2 [0x81] with port := [.reset] }, [], rfl⟩

theorem witness_StepRunsDecodedCommand :
    ∃ (s : State) (c : Command) (rest : List HostInput) (i : Instr), s.port = .command c :: rest ∧
      decodeCommand c = .ok i :=
  ⟨issuing 0x60000000 (openWith [0x81]), plainCommand 0x60000000, [], .recv, rfl, rfl⟩

theorem witness_RecvStepRunsFrameInFront :
    ∃ (s : State) (c : Command) (rest : List HostInput) (i : Instr) (bytes tail : List Byte),
      s.port = .command c :: rest ∧ c.word = 0x60000000 ∧ i.wf = true ∧ encode i = .wire bytes ∧
      s.rxbuf = bytes ++ tail :=
  ⟨issuing 0x60000000 (openWith (someBytes ++ [0x81])), plainCommand 0x60000000, [], .frameText someFrame, someBytes,
    [0x81], rfl, rfl, by decide, by decide, rfl⟩

theorem witness_NoInputNothingHappens : ∃ s : State, s.port = [] := ⟨openWith [0x81], rfl⟩

theorem witness_TableWordRunsNext :
    (∃ (w : Nat) (i : Instr), decodeTableWord 32 w = some i) ∧ ∃ (w : Nat) (i : Instr), decodeTableWord 8 w = some i :=
  ⟨⟨0x60000000, .recv, rfl⟩, 0x8F, .frameRsvd15 ⟨true, .len7, none, []⟩, rfl⟩

theorem witness_IllegalWordAnswered :
    (∃ (s : State) (c : Command) (rest : List HostInput), s.port = .command c :: rest ∧
      c.word ≠ 0x10000000 ∧ c.word ≠ 0x20000000 ∧ c.word &&& 0xF10FFFFF ≠ 0x30000000 ∧ c.word ≠ 0x40000000 ∧
      c.word ≠ 0x50000000 ∧ c.word ≠ 0x60000000 ∧ c.word ≠ 0x70000000 ∧ c.word ≠ 0x80000000) ∧
    ∃ (s : State) (c : Command) (rest : List HostInput), s.port = .command c :: rest ∧
      c.word ∈ [0x00000000#32, 0x90000000, 0x10000001, 0x31000000, 0x30000001] :=
  ⟨⟨issuing 0x50000100 (openWith [0x81]), plainCommand 0x50000100, [], by decide⟩,
   issuing 0x30000001 (openWith [0x81]), plainCommand 0x30000001, [], by decide⟩

theorem witness_CommandMapDecodes :
    (cmd 0x10000000).word &&& 0xFFFFFFFF = 0x10000000 ∧ (cmd 0x20000000).word &&& 0xFFFFFFFF = 0x20000000 ∧
    (cmd 0x3EF00000).word &&& 0xF10FFFFF = 0x30000000 ∧ (cmd 0x40000000).word &&& 0xFFFFFFFF = 0x40000000 ∧
    (cmd 0x50000000).word &&& 0xFFFFFFFF = 0x50000000 ∧ (cmd 0x60000000).word &&& 0xFFFFFFFF = 0x60000000 ∧
    (cmd 0x70000000).word &&& 0xFFFFFFFF = 0x70000000 ∧ (cmd 0x80000000).word &&& 0xFFFFFFFF = 0x80000000 ∧
    (cmd 0x00000000).word.extractLsb' 28 4 = 0 ∧ 9 ≤ ((cmd 0x90000000).word.extractLsb' 28 4).toNat ∧
    9 ≤ ((cmd 0xFFFFFFFF).word.extractLsb' 28 4).toNat := by decide

theorem witness_LegalWordMatchesOneRow :
    (∃ (w : CmdWord) (r1 r2 : CmdRow), r1 ∈ commandTable ∧ r2 ∈ commandTable ∧ r1.selects w = true ∧
      r2.selects w = true) ∧
    ∃ (s : State) (c : Command) (rest : List HostInput), s.port = .command c :: rest ∧
      ¬ ∃ r ∈ commandTable, r.selects c.word = true :=
  ⟨⟨0x3EF00000, ⟨.encode, 0x30000000, 0xF10FFFFF⟩, ⟨.encode, 0x30000000, 0xF10FFFFF⟩, by decide, by decide, by decide,
    by decide⟩, issuing 0x00000000 (openWith []), plainCommand 0x00000000, [], rfl, by decide⟩

/-- An unmasked ENCODE with another KEY and N, and a masked one with another N; a CONSUME with another DATA and KEY. -/
theorem witness_IgnoredOperandsHaveNoEffect :
    ∀ p ∈ [((⟨0x3A100000, [0x41], 1, 2⟩ : Command), (⟨0x3A100000, [0x41], 3, 4⟩ : Command)),
           (⟨0x3E100000, [0x41], 1, 2⟩, ⟨0x3E100000, [0x41], 1, 4⟩), (⟨0x70000000, [0x41], 1, 2⟩, ⟨0x70000000, [], 3, 2⟩),
           (⟨0x40000000, [0x41], 1, 2⟩, ⟨0x40000000, [0x41], 3, 4⟩)],
      p.1 ≠ p.2 ∧ p.1.word = p.2.word ∧ (p.1.word &&& 0xF10FFFFF = 0x30000000 → p.1.data = p.2.data) ∧
      (p.1.word &&& 0xF10FFFFF = 0x30000000 → p.1.word.getLsbD 26 = true → p.1.word.getLsbD 25 = true →
        p.1.key = p.2.key) ∧
      (p.1.word = 0x40000000 → p.1.data = p.2.data) ∧ (p.1.word = 0x70000000 → p.1.n = p.2.n) := by decide

theorem witness_ResponsesAreNotRead : ∃ s t : State, step s = .next t :=
  ⟨issuing 0x80000000 (openWith [0x81]), _, rfl⟩

theorem witness_EveryCommandReturnsOneResponse :
    ∃ (s : State) (c : Command) (rest : List HostInput), s.port = .command c :: rest :=
  ⟨issuing 0x80000000 (openWith [0x81]), plainCommand 0x80000000, [], rfl⟩

theorem witness_CommandDecodeOfEncode : ∃ (i : Instr) (c : Command), encode i = .command c :=
  ⟨.encode true 9 true (some 0x61616161) [0x61], ⟨0x3E900000, [0x61], 0x61616161, 0⟩, by decide⟩

theorem witness_WireDecodeOfEncode : ∃ (i : Instr) (bytes : List Byte), i.wf = true ∧ encode i = .wire bytes :=
  ⟨.frameText someFrame, someBytes, by decide, by decide⟩

/-- Unmasked with a key supplied, and masked; at each end of each length form. -/
theorem witness_EncodeOutput :
    ∀ n ∈ [0, 125, 126, 65535, 65536, 2 ^ 64 - 1],
      (List.replicate n (0x41 : Byte)).length < 2 ^ 64 ∧ (true = true → (some (0x01020304 : KeyWord)).isSome = true) ∧
      (false = true → (none : Option KeyWord).isSome = true) ∧
      ((List.replicate n (0x41 : Byte)).length < 126 ∨
       126 ≤ (List.replicate n (0x41 : Byte)).length ∧ (List.replicate n (0x41 : Byte)).length ≤ 65535 ∨
       65536 ≤ (List.replicate n (0x41 : Byte)).length) := by
  intro n hn
  simp only [List.length_replicate]
  simp only [List.mem_cons, List.not_mem_nil, or_false] at hn
  rcases hn with rfl | rfl | rfl | rfl | rfl | rfl <;> decide

theorem witness_EncodeInputErrors :
    ∃ (key : Option KeyWord) (data : List Byte), (true = true → key.isSome = true) ∧ 2 ^ 64 ≤ data.length :=
  ⟨some 0, List.replicate (2 ^ 64) 0, fun _ => rfl, Nat.le_of_eq List.length_replicate.symm⟩

theorem witness_MaskTransformBytes :
    ∃ (k : Key) (s : List Byte) (i : Nat) (b m : Byte), s[i]? = some b ∧ [k.k0, k.k1, k.k2, k.k3][i % 4]? = some m :=
  ⟨⟨1, 2, 3, 4⟩, [0x41, 0x42, 0x43, 0x44, 0x45], 4, 0x45, 1, rfl, rfl⟩

theorem witness_DecodeOfEncodeOutput :
    ∃ (msk : Bool) (key : Option KeyWord) (data : List Byte), (msk = true → key.isSome = true) ∧
      data.length ≤ Config.maxPayloadLen :=
  ⟨true, some 0x01020304, [0x41], fun _ => rfl, Nat.le_trans (by decide) le_maxPayloadLen⟩

/-- A buffer for each clause, under the least legal cap: too short, RSV bits, header short, over the cap, frame short,
and a whole frame, unmasked and masked. -/
theorem witness_FrameDecoderSteps :
    65536 ≤ 65536 ∧ ([0x81] : List Byte).length < 2 ∧ (0xC1 : Byte).toNat / 16 % 8 ≠ 0 ∧
    ((0x81 : Byte).toNat / 16 % 8 = 0 ∧ [0x81, 0x7E, 0x00].length < headerLen 0x7E) ∧
    (headerLen 0x7F ≤ [0x82, 0x7F, 0, 0, 0, 0, 0, 1, 0, 1].length ∧
      65536 < headerPayloadLen [0x82, 0x7F, 0, 0, 0, 0, 0, 1, 0, 1] 0x7F) ∧
    (headerPayloadLen [0x82, 0x7F, 0, 0, 0, 0, 0, 1, 0, 0] 0x7F ≤ 65536 ∧
      [0x82, 0x7F, 0, 0, 0, 0, 0, 1, 0, 0].length <
        headerStart 0x7F + headerPayloadLen [0x82, 0x7F, 0, 0, 0, 0, 0, 1, 0, 0] 0x7F) ∧
    (headerStart 0x01 + headerPayloadLen [0x81, 0x01, 0x41] 0x01 ≤ [0x81, 0x01, 0x41].length ∧
      headerKey [0x81, 0x01, 0x41] 0x01 = none) ∧
    (headerStart 0x81 + headerPayloadLen someBytes 0x81 ≤ someBytes.length ∧
      headerKey someBytes 0x81 = some ⟨1, 2, 3, 4⟩) := by decide

theorem witness_DecodedFrameInvariant :
    ∃ (maxLen : Nat) (b0 b1 : Byte) (tail : List Byte) (d : DecodedFrame),
      decodeFrame maxLen (b0 :: b1 :: tail) = .frame d :=
  ⟨65536, 0x81, 0x01, [0x41], ⟨true, 1, false, none, [0x41], 3, .len7⟩, by decide⟩

theorem witness_ExtensionLaw :
    (∃ (b : List Byte) (d : DecodedFrame), decodeFrame 65536 b = .frame d) ∧
    ∃ (b : List Byte) (c : ProtoCause), decodeFrame 65536 b = .perror c :=
  ⟨⟨[0x81, 0x00], ⟨true, 1, false, none, [], 2, .len7⟩, by decide⟩, [0x91, 0x00], .rsvNonzero, by decide⟩

theorem witness_PartialBufferLaw :
    ∃ (maxLen : Nat) (frame : List Byte) (d : DecodedFrame) (p q : List Byte),
      decodeFrame maxLen frame = .frame d ∧ d.consumed = frame.length ∧ frame = p ++ q ∧ q ≠ [] :=
  ⟨65536, [0x81, 0x01, 0x41], ⟨true, 1, false, none, [0x41], 3, .len7⟩, [0x81, 0x01], [0x41], by decide⟩

theorem witness_OpcodesAreOpaque :
    ∃ (msk : Bool) (key : Option KeyWord) (data : List Byte), (msk = true → key.isSome = true) ∧
      data.length < 2 ^ 64 := ⟨true, some 0, [0x41], by decide⟩

/-- For DECODE and RECV: a state for each clause. -/
theorem witness_DecodeCommandEffect :
    State.reset.sess = .closed ∧ ((latched 1 [0x81]).sess = .opened ∧ (latched 1 [0x81]).perr = true) ∧
    ((openWith [0x81]).sess = .opened ∧ (openWith [0x81]).perr = false ∧
      decodeFrame Config.maxPayloadLen (openWith [0x81]).rxbuf = .needMore) ∧
    ((openWith [0xC1, 0x00]).sess = .opened ∧ (openWith [0xC1, 0x00]).perr = false ∧
      decodeFrame Config.maxPayloadLen (openWith [0xC1, 0x00]).rxbuf = .perror .rsvNonzero) ∧
    ((openWith [0x81, 0x00]).sess = .opened ∧ (openWith [0x81, 0x00]).perr = false ∧
      decodeFrame Config.maxPayloadLen (openWith [0x81, 0x00]).rxbuf =
        .frame ⟨true, 1, false, none, [], 2, .len7⟩) := by decide

/-- The hypotheses of RECV's statement are those of DECODE's. -/
theorem witness_RecvCommandEffect :
    State.reset.sess = .closed ∧ (latched 1 [0x81]).perr = true ∧
    decodeFrame Config.maxPayloadLen (openWith [0x81]).rxbuf = .needMore ∧
    decodeFrame Config.maxPayloadLen (openWith [0xC1, 0x00]).rxbuf = .perror .rsvNonzero ∧
    decodeFrame Config.maxPayloadLen (openWith someBytes).rxbuf =
      .frame ⟨true, 1, true, some ⟨1, 2, 3, 4⟩, [0x41], 7, .len7⟩ ∧
    (openWith someBytes).sess = .opened ∧ (openWith someBytes).perr = false := by decide

theorem witness_DecodeIsIdempotent :
    ∃ s t u : State, exec .decode s = .next t ∧ u.sess = t.sess ∧ u.rxbuf = t.rxbuf ∧ u.perr = t.perr ∧
      u.pcause = t.pcause :=
  ⟨State.reset, reply .notOpen 0 {} State.reset, State.reset, rfl, rfl, rfl, rfl, rfl⟩

theorem witness_DecodeThenConsumeIsRecv :
    ∃ (s t : State) (r : Response) (n : Nat), exec .decode s = .next t ∧ t.responses = s.responses ++ [r] ∧
      r.status = .ok ∧ r.consumed = some n ∧ n < 2 ^ 64 := by
  exact ⟨openWith [0x81, 0x00, 0x81],
    reply .ok 0 (frameFields ⟨true, 1, false, none, [], 2, .len7⟩) (openWith [0x81, 0x00, 0x81]),
    responseOf .ok 0 (frameFields ⟨true, 1, false, none, [], 2, .len7⟩) (openWith [0x81, 0x00, 0x81]), 2, rfl, rfl, rfl,
    rfl, by decide⟩

theorem witness_FrameRowsDeliver :
    (openWith someBytes).sess = .opened ∧ (openWith someBytes).perr = false ∧
    someFrame.payload.length ≤ Config.maxPayloadLen :=
  ⟨rfl, rfl, Nat.le_trans (by decide) le_maxPayloadLen⟩

theorem witness_FrameRowsTurnedAway :
    State.reset.sess = .closed ∧ ((latched 1 []).sess = .opened ∧ (latched 1 []).perr = true) ∧
    ((openWith []).sess = .opened ∧ (openWith []).perr = false ∧
      ∃ f : WireFrame, Config.maxPayloadLen < f.payload.length) :=
  ⟨rfl, ⟨rfl, rfl⟩, rfl, rfl, ⟨true, .len64, none, List.replicate (Config.maxPayloadLen + 1) 0⟩, by simp⟩

/-- The third clause has a witness under every finite capacity; under INF it says nothing, as the rule does. -/
theorem witness_AppendCommandEffect :
    State.reset.sess = .closed ∧
    (∀ cap, Config.rxbufCap = .finite cap →
      ∃ (data : List Byte) (s : State), s.sess = .opened ∧ cap < s.rxbuf.length + data.length) ∧
    ((openWith [0x81]).sess = .opened ∧
      ∀ cap, Config.rxbufCap = .finite cap → (openWith [0x81]).rxbuf.length + [0x01, 0x41].length ≤ cap) := by
  refine ⟨rfl, fun cap _ => ⟨List.replicate (cap + 1) 0, openWith [], rfl, by simp [openWith]⟩, rfl, fun cap h => ?_⟩
  have hf : admits Config.rxbufCap 3 = true := admits_of_le_65550 (by decide)
  rw [h] at hf
  simpa [admits, openWith] using hf

theorem witness_ConsumeCommandEffect :
    State.reset.sess = .closed ∧ ((latched 1 [0x81]).sess = .opened ∧ (latched 1 [0x81]).perr = true) ∧
    ((openWith [0x81]).sess = .opened ∧ (openWith [0x81]).perr = false) := by decide

theorem witness_BufferBytesKeepTheirOrder :
    (∃ s t : State, exec (.append [0x81]) s = .next t ∧ 0 < s.rxbuf.length ∧ s.rxbuf.length < t.rxbuf.length) ∧
    (∃ s t : State, exec .recv s = .next t) ∧ ∃ (n : Count) (s t : State), exec (.consume n) s = .next t := by
  refine ⟨⟨openWith [0x81], reply .ok 0 {} (rxAppend [0x81] (openWith [0x81])), ?_, by decide, by decide⟩,
    ⟨State.reset, _, rfl⟩, 1, openWith [0x81], _, rfl⟩
  rfl

theorem witness_NoByteWrittenInPlace :
    ∀ i ∈ [Instr.append [0x81], .recv, .consume 1, .openSess, .closeSess, .decode, .status, .encode true 1 false none []],
      (nextOf (exec i (openWith [0x81, 0x00]))).isSome = true := by decide

theorem witness_BufferIsHistoryLessAPrefix :
    ∃ (s t : State) (h : List Byte) (k : Nat), step s = .next t ∧ s.rxbuf = h.drop k :=
  ⟨issuing 0x80000000 (openWith [0x81]), _, [0x82, 0x81], 1, rfl, rfl⟩

theorem witness_OpenCommandEffect : (openWith [0x81]).sess = .opened ∧ State.reset.sess = .closed := by decide

theorem witness_CloseCommandEffect : State.reset.sess = .closed ∧ (openWith [0x81]).sess = .opened := by decide

/-- OPEN from CLOSED, CLOSE from OPEN, and a reset of an open session each move SESS. -/
theorem witness_SessionMovesOnlyByOpenCloseOrReset :
    (∃ (s t : State) (c : Command) (rest : List HostInput), s.port = .command c :: rest ∧ step s = .next t ∧
      c.word = 0x10000000 ∧ s.sess = .closed ∧ t.sess ≠ s.sess) ∧
    (∃ (s t : State) (c : Command) (rest : List HostInput), s.port = .command c :: rest ∧ step s = .next t ∧
      c.word = 0x20000000 ∧ s.sess = .opened ∧ t.sess ≠ s.sess) ∧
    ∃ (s t : State) (rest : List HostInput), s.port = .reset :: rest ∧ step s = .next t ∧ t.sess ≠ s.sess :=
  ⟨⟨issuing 0x10000000 State.reset, _, plainCommand 0x10000000, [], rfl, rfl, rfl, rfl, by decide⟩,
   ⟨issuing 0x20000000 (openWith [0x81]), _, plainCommand 0x20000000, [], rfl, rfl, rfl, rfl, by decide⟩,
   { openWith [0x81] with port := [.reset] }, _, [], rfl, rfl, by decide⟩

/-- A closed session that has answered before and whose next input is a CLOSE; ENCODE's operands; an open session. -/
theorem witness_AfterReset :
    (∃ s t : State, s.sess = .closed ∧ s.responses ≠ [] ∧
      (∀ c rest, s.port = .command c :: rest → c.word ≠ 0x10000000) ∧ step s = .next t) ∧
    (∃ (msk : Bool) (key : Option KeyWord) (data : List Byte), (msk = true → key.isSome = true) ∧
      data.length < 2 ^ 64) ∧
    (openWith [0x81]).sess = .opened := by
  refine ⟨⟨issuing 0x20000000 (reply .notOpen 0 {} State.reset), _, rfl, by decide, ?_, rfl⟩,
    ⟨true, some 0, [0x41], by decide⟩, rfl⟩
  rintro c rest h
  cases h
  decide

theorem witness_LatchRefusal : (latched 1 [0x81, 0x00]).sess = .opened ∧ (latched 1 [0x81, 0x00]).perr = true := by decide

theorem witness_ProtocolErrorSetsLatch :
    (openWith [0xC1, 0x00]).sess = .opened ∧ (openWith [0xC1, 0x00]).perr = false ∧
    decodeFrame Config.maxPayloadLen (openWith [0xC1, 0x00]).rxbuf = .perror .rsvNonzero := by decide

/-- A new protocol error, one from the latch, and an error of another status. -/
theorem witness_ErrorsWriteNothingElse :
    ∀ s ∈ [issuing 0x60000000 (openWith [0xC1, 0x00]), issuing 0x60000000 (latched 2 [0x81, 0x00]),
           issuing 0x00000000 (latched 1 [])],
      ∃ t r, nextOf (step s) = some t ∧ t.responses = s.responses ++ [r] ∧ r.status ≠ .ok := by
  intro s hs
  simp only [List.mem_cons, List.not_mem_nil, or_false] at hs
  rcases hs with rfl | rfl | rfl
  · exact ⟨_, _, rfl, rfl, by decide⟩
  · exact ⟨_, _, rfl, rfl, by decide⟩
  · exact ⟨_, _, rfl, rfl, by decide⟩

theorem witness_SessionThenLatchCheck :
    State.reset.sess = .closed ∧ (openWith []).sess = .opened ∧ (latched 2 []).sess = .opened ∧
    (latched 2 []).perr = true := by decide

/-- A latched state that satisfies the invariants. -/
theorem witness_latched_inv : Inv (latched 1 [0xC1, 0x00]) where
  closed_clear := by decide
  latch_iff_cause := by decide
  within_capacity := admits_of_le_65550 (by decide)
  cause_used := by decide

theorem witness_LatchLeftOnlyByCloseOrReset : ∃ s t : State, Inv s ∧ step s = .next t ∧ s.perr = true :=
  ⟨latched 1 [0xC1, 0x00], _, witness_latched_inv, rfl, rfl⟩

theorem witness_ResponseFieldsPresent : ∃ (i : Instr) (s t : State), exec i s = .next t :=
  ⟨.status, openWith [0x81], _, rfl⟩

theorem witness_StepKeepsInvariants : ∃ s t : State, Inv s ∧ step s = .next t :=
  ⟨latched 1 [0xC1, 0x00], _, witness_latched_inv, rfl⟩

/-- With a response already there, the one of the decoder's error. -/
theorem witness_StepKeepsResponsesWellFormed :
    ∃ s t : State, Inv s ∧ (∀ r ∈ s.responses, ResponseOk r) ∧ s.responses ≠ [] ∧ step s = .next t := by
  refine ⟨reply .protocolError 1 {} (latched 1 [0xC1, 0x00]), _, ?_, ?_, by decide, rfl⟩
  · exact ⟨witness_latched_inv.1, witness_latched_inv.2, witness_latched_inv.3, witness_latched_inv.4⟩
  · intro r hr
    have : r = responseOf .protocolError 1 {} (latched 1 [0xC1, 0x00]) := by simpa [latched] using hr
    subst this
    exact ⟨.bare, fun _ => rfl, fun _ => .inl rfl, fun h => absurd rfl h, by decide⟩

theorem witness_ReceiveProcedureReassembles :
    ∃ (s : State) (i : Instr) (bytes : List Byte) (opc : Opcode) (f : WireFrame) (reads : List (List Byte)),
      s.sess = .opened ∧ s.perr = false ∧ s.rxbuf = [] ∧ i.wf = true ∧ encode i = .wire bytes ∧
      i.frame? = some (opc, f) ∧ f.payload.length ≤ Config.maxPayloadLen ∧ (∀ x ∈ reads, x ≠ []) ∧
      reads.flatten = bytes :=
  ⟨openWith [], .frameText someFrame, someBytes, 1, someFrame, [[0x81, 0x81, 0x01], [0x02], [0x03, 0x04, 0x40]], rfl, rfl,
    rfl, by decide, by decide, rfl, Nat.le_trans (by decide) le_maxPayloadLen, by decide, by decide⟩

end Sys2Proof.Tests
end

