-- ==== Sys2Proof/Proofs/Scope.lean ====
section
/-! The statements of spec/00_scope.md: the parameters' ranges, what a step runs, and that every command completes
with one response. -/

namespace Sys2Proof.Machine

/-! ## The parameters (00_scope.md R9) -/

theorem maxPayloadLen_le : Config.maxPayloadLen ≤ 2 ^ 64 - 1 := by
  have := Config.lenSlack.isLt
  unfold Config.maxPayloadLen
  omega

theorem le_of_rxbufCap_finite {c : Nat} (h : Config.rxbufCap = .finite c) : Config.maxPayloadLen + 14 ≤ c := by
  unfold Config.rxbufCap at h
  cases hk : Config.capSlack with
  | none => simp [hk] at h
  | some k => simp [hk] at h; omega

/-- The capacity admits a frame whose payload is as long as the cap allows, under the longest header and a key. -/
theorem admits_of_le_maxPayloadLen {n : Nat} (h : n ≤ Config.maxPayloadLen + 14) :
    admits Config.rxbufCap n = true := by
  cases hc : Config.rxbufCap with
  | inf => rfl
  | finite c => exact decide_eq_true (h.trans (le_of_rxbufCap_finite hc))

/-- A header with its key has at most 14 bytes (30_encoding.md R104). -/
theorem payloadStart_le (form : LenForm) (b1 : Byte) : payloadStart form.hlen b1 ≤ 14 := by
  have hk := keyLen_eq (maskedOf b1)
  have hm := Bool.toNat_le (maskedOf b1)
  have hh := hlen_cases form
  unfold payloadStart
  omega

/-- A decoded frame passed the cap check, so it occupies at most 14 bytes more than the cap. -/
theorem consumed_le_of_decodeFrame {buf : List Byte} {d : DecodedFrame}
    (h : decodeFrame Config.maxPayloadLen buf = .frame d) : d.consumed ≤ Config.maxPayloadLen + 14 := by
  obtain ⟨-, b1, -, len, -, -, -, hcap, -, -, -, -, -, -, hconsumed⟩ := decodeFrame_frame h
  have hlen : len ≤ Config.maxPayloadLen := by simpa [overCap_config] using hcap
  have hstart := payloadStart_le (formOf (indOf b1)) b1
  omega

/-- Settles O1: the parameters' definitions give the three ranges, and a frame is at most a header longer than the
cap. -/
theorem parametersInRange : Obligations.ParametersInRange :=
  ⟨le_maxPayloadLen, maxPayloadLen_le, fun _ => le_of_rxbufCap_finite,
    fun _ _ h => admits_of_le_maxPayloadLen (consumed_le_of_decodeFrame h)⟩

/-! ## What a step runs (00_scope.md R8) -/

theorem step_decoded_command {s : State} {c : Command} {rest : List HostInput} {i : Instr}
    (hp : s.port = .command c :: rest) (hd : decodeCommand c = .ok i) : step s = exec i { s with port := rest } := by
  rw [step_command hp, hd]

/-- Settles O7. -/
theorem stepRunsDecodedCommand : Obligations.StepRunsDecodedCommand :=
  fun _ _ _ _ => step_decoded_command

/-! ## Every meaning completes (00_scope.md R23) -/

/-- No step of the decoder reads beyond the buffer: each read comes after the length check that makes it defined
(20_memory.md R62). -/
theorem decodeFrame_ne_badRead (maxLen : Nat) (buf : List Byte) : decodeFrame maxLen buf ≠ .badRead := by
  rcases short_or_cons buf with hs | ⟨b0, b1, tail, rfl⟩
  · simp [decodeFrame_short hs]
  rw [decodeFrame_cons]
  split
  · simp
  by_cases hl : (b0 :: b1 :: tail).length < (formOf (indOf b1)).hlen
  · simp [decodeLength_short hl]
  obtain ⟨len, hlen⟩ := payloadLenOf_of_hlen_le (Nat.le_of_not_lt hl)
  rw [decodeLength_of_len (Nat.le_of_not_lt hl) hlen]
  split
  · simp
  by_cases hp : (b0 :: b1 :: tail).length < payloadStart (formOf (indOf b1)).hlen b1 + len
  · simp [decodePayload_short hp]
  · obtain ⟨key, payload, he, -⟩ := decodePayload_of_le (b0 := b0) (Nat.le_of_not_lt hp)
    simp [he]

/-- An operation completes when it answers a next state: no fault and no refusal. -/
def Completes (o : Result) : Prop := ∃ t, o = .next t

theorem completes_next (t : State) : Completes (.next t) := ⟨t, rfl⟩

theorem completes_whenOpen {s : State} {k : Result} (h : Completes k) : Completes (whenOpen s k) := by
  cases ho : s.sess with
  | closed => rw [whenOpen_closed ho]; exact completes_next _
  | opened => rwa [whenOpen_opened ho]

theorem completes_whenUnlatched {s : State} {k : Result} (h : Completes k) : Completes (whenUnlatched s k) := by
  cases hp : s.perr with
  | true => rw [whenUnlatched_set hp]; exact completes_next _
  | false => rwa [whenUnlatched_clear hp]

/-- A decode attempt completes because its one fault needs a read beyond RXBUF. -/
theorem completes_attemptFrame (maxLen : Nat) (taken : DecodedFrame → Nat) (s : State) :
    Completes (attemptFrame maxLen taken s) := by
  refine completes_whenOpen (completes_whenUnlatched ?_)
  cases hd : decodeFrame maxLen s.rxbuf with
  | needMore => exact completes_next _
  | perror c => exact completes_next _
  | frame d => exact completes_next _
  | badRead => exact absurd hd (decodeFrame_ne_badRead maxLen s.rxbuf)

theorem completes_receiveFrame (maxLen : Nat) (opc : Opcode) (f : WireFrame) (s : State) :
    Completes (receiveFrame maxLen opc f s) := by
  refine completes_whenOpen (completes_whenUnlatched ?_)
  split
  · exact completes_next _
  · exact completes_next _

theorem completes_exec (i : Instr) (s : State) : Completes (exec i s) := by
  cases i with
  | openSess =>
    cases ho : s.sess with
    | closed => simp only [exec, execOpen, ho]; exact completes_next _
    | opened => simp only [exec, execOpen, ho]; exact completes_next _
  | closeSess => exact completes_whenOpen (completes_next _)
  | encode fin opc msk key data =>
    simp only [exec, execEncode]
    split
    · exact completes_next _
    · unfold encodeMasked
      split
      · exact completes_next _
      · exact completes_next _
  | append data =>
    refine completes_whenOpen ?_
    split
    · exact completes_next _
    · exact completes_next _
  | decode => exact completes_attemptFrame _ _ s
  | recv => exact completes_attemptFrame _ _ s
  | consume n => exact completes_whenOpen (completes_whenUnlatched (completes_next _))
  | status => exact completes_next _
  | _ => exact completes_receiveFrame _ _ _ s

/-! ## The response of a command -/

/-- No meaning touches the port or the record of responses but to add its own response. -/
theorem Ends.port_responses {i : Instr} {s u : State} {st : Status} {cause : BitVec 2} {f : ResponseFields}
    (h : Ends i s st cause f u) : u.port = s.port ∧ u.responses = s.responses := by
  cases h <;> exact ⟨rfl, rfl⟩

/-- A meaning completes by adding one response to a state with the same port and record of responses. -/
theorem exec_replies (i : Instr) (s : State) :
    ∃ st cause f u, exec i s = .next (reply st cause f u) ∧ u.port = s.port ∧ u.responses = s.responses := by
  obtain ⟨t, ht⟩ := completes_exec i s
  obtain ⟨st, cause, f, u, rfl, hu⟩ := exec_answers i s t ht
  exact ⟨st, cause, f, u, ht, hu.port_responses⟩

/-- A step at a command, legal or not, takes it from the port and adds one response. -/
theorem step_command_replies {s : State} {c : Command} {rest : List HostInput} (hp : s.port = .command c :: rest) :
    ∃ st cause f u, step s = .next (reply st cause f u) ∧ u.port = rest ∧ u.responses = s.responses := by
  rw [step_command hp]
  cases decodeCommand c with
  | ok i => exact exec_replies i { s with port := rest }
  | error e => exact ⟨.illegalCmd, 0, {}, { s with port := rest }, rfl, rfl, rfl⟩

/-- Settles O16: the one response is made of the state the command ends in, and adding it changes neither the STATE
word nor RXBUF. -/
theorem everyCommandReturnsOneResponse : Obligations.EveryCommandReturnsOneResponse := by
  intro s c rest hp
  obtain ⟨st, cause, f, u, hstep, hport, hresp⟩ := step_command_replies hp
  exact ⟨reply st cause f u, responseOf st cause f u, hstep, hport, by simp [hresp], rfl, rfl⟩

end Sys2Proof.Machine
end

/-! The statements of spec/10_state.md: the invariants of the state, the STATE word, what a response holds and that no
command reads an earlier one, and the moves of SESS. -/

namespace Sys2Proof.Machine

/-! ## The invariants (10_state.md R36) -/

/-- The invariants speak of SESS, RXBUF, PERR and PCAUSE only. -/
theorem Inv.congr {s t : State} (h : Inv s) (hsess : t.sess = s.sess) (hbuf : t.rxbuf = s.rxbuf)
    (hperr : t.perr = s.perr) (hcause : t.pcause = s.pcause) : Inv t := by
  obtain ⟨hclear, hlatch, hcap, hused⟩ := h
  constructor <;> simpa only [hsess, hbuf, hperr, hcause]

theorem Inv.reply {s : State} (h : Inv s) (st : Status) (cause : BitVec 2) (f : ResponseFields) :
    Inv (reply st cause f s) := h.congr rfl rfl rfl rfl

theorem inv_clearBlock (x : Session) (s : State) : Inv (clearBlock x s) where
  closed_clear _ := ⟨rfl, rfl, rfl⟩
  latch_iff_cause := by simp
  within_capacity := admits_of_le_65550 (Nat.zero_le _)
  cause_used := by simp

theorem protoCode_ne_zero (c : ProtoCause) : protoCode c ≠ 0 := by cases c <;> decide

theorem protoCode_ne_three (c : ProtoCause) : protoCode c ≠ 3 := by cases c <;> decide

/-- The latch is set in an open session only, and with a named cause. -/
theorem Inv.setLatch {s : State} (h : Inv s) (ho : s.sess = .opened) (c : ProtoCause) : Inv (setLatch c s) where
  closed_clear hc := by simp [ho] at hc
  latch_iff_cause := iff_of_false (by simp) (protoCode_ne_zero c)
  within_capacity := h.within_capacity
  cause_used := protoCode_ne_three c

theorem Inv.rxDrop {s : State} (h : Inv s) (k : Nat) : Inv (rxDrop k s) where
  closed_clear hc := by
    obtain ⟨hnil, hclear⟩ := h.closed_clear hc
    exact ⟨by simp [hnil], hclear⟩
  latch_iff_cause := h.latch_iff_cause
  within_capacity := admits_mono (by simp) h.within_capacity
  cause_used := h.cause_used

/-- APPEND adds bytes in an open session only, and only as many as fit. -/
theorem Inv.rxAppend {s : State} {data : List Byte} (h : Inv s) (ho : s.sess = .opened)
    (hf : admits Config.rxbufCap (s.rxbuf.length + data.length) = true) : Inv (rxAppend data s) where
  closed_clear hc := by simp [ho] at hc
  latch_iff_cause := h.latch_iff_cause
  within_capacity := by simpa using hf
  cause_used := h.cause_used

/-- The state a meaning ends in satisfies the invariants when the state it starts in does. -/
theorem Ends.inv {i : Instr} {s u : State} {st : Status} {cause : BitVec 2} {f : ResponseFields}
    (h : Ends i s st cause f u) (hs : Inv s) : Inv u := by
  cases h with
  | newError c _ ho => exact hs.setLatch ho c
  | openIt => exact inv_clearBlock .opened s
  | closeIt => exact inv_clearBlock .closed s
  | appended data _ ho hf => exact hs.rxAppend ho hf
  | frame d k => exact hs.rxDrop k
  | counted n => exact hs.rxDrop _
  | _ => exact hs

theorem step_keeps_inv {s t : State} (hs : Inv s) (h : step s = .next t) : Inv t := by
  have htaken (rest : List HostInput) : Inv { s with port := rest } := hs.congr rfl rfl rfl rfl
  obtain ⟨-, rfl⟩ | ⟨rest, -, rfl⟩ | ⟨c, rest, i, st, cause, f, u, -, -, rfl, hends⟩ | ⟨c, rest, e, -, -, rfl⟩ :=
    step_next h
  · exact hs
  · exact inv_clearBlock .closed _
  · exact (hends.inv (htaken rest)).reply st cause f
  · exact (htaken rest).reply _ _ _

/-- The capacity bound of the invariants is the form of RXBUF (20_memory.md R71). -/
theorem Inv.memory_wf {s : State} (h : Inv s) : Memory.wf s = true :=
  (rxbufFits_eq_admits _).trans h.within_capacity

/-- Settles O58: a step keeps the block, clears it, or ends a meaning, and each update a meaning makes keeps the
invariants where it is made. -/
theorem stepKeepsInvariants : Obligations.StepKeepsInvariants :=
  fun _ _ hs h => ⟨step_keeps_inv hs h, (step_keeps_inv hs h).memory_wf⟩

/-- Settles O57: the reset state is a cleared block. -/
theorem invariantsHoldAtReset : Obligations.InvariantsHoldAtReset :=
  ⟨inv_clearBlock .closed State.reset, reset_memory_wf⟩

/-! ## The STATE word and its reset value (10_state.md R37, R43) -/

/-- Settles O2. -/
theorem resetValues : Obligations.ResetValues := ⟨rfl, rfl, rfl, rfl, stateWord_clearBlock .closed State.reset⟩

theorem sessBit_eq (x : Session) : sessBit x = decide (x = .opened) := by cases x <;> rfl

/-- The fields of a word laid out as R37 says. -/
theorem stateLayout_fields (pcause : BitVec 2) (perr sess : Bool) :
    (0#28 ++ pcause ++ BitVec.ofBool perr ++ BitVec.ofBool sess).getLsbD 0 = sess ∧
    (0#28 ++ pcause ++ BitVec.ofBool perr ++ BitVec.ofBool sess).getLsbD 1 = perr ∧
    (0#28 ++ pcause ++ BitVec.ofBool perr ++ BitVec.ofBool sess).extractLsb' 2 2 = pcause ∧
    (0#28 ++ pcause ++ BitVec.ofBool perr ++ BitVec.ofBool sess).extractLsb' 4 28 = 0 := by
  cases perr <;> cases sess <;> revert pcause <;> decide

/-- Settles O4. -/
theorem stateWordFields : Obligations.StateWordFields := by
  intro s
  rw [← sessBit_eq]
  exact stateLayout_fields s.pcause s.perr (sessBit s.sess)

/-! ## The record of responses is not read (10_state.md R40) -/

/-- The state with another record of earlier responses. -/
def State.withResponses (s : State) (log : List Response) : State := { s with responses := log }

@[simp] theorem withResponses_sess (s : State) (log : List Response) : (s.withResponses log).sess = s.sess := rfl

@[simp] theorem withResponses_rxbuf (s : State) (log : List Response) : (s.withResponses log).rxbuf = s.rxbuf := rfl

/-- `o'` answers as `o` does, but with the record `log` in place of that of `s`: the new responses are the same, and so
is the state but for its record. -/
def AnswersAlike (s : State) (log : List Response) (o o' : Result) : Prop :=
  ∀ t, o = .next t → ∃ new, t.responses = s.responses ++ new ∧ o' = .next (t.withResponses (log ++ new))

/-- A response is made of the block's own state, so a reply is the same on another record. -/
theorem answersAlike_reply {s : State} {log : List Response} (u : State) (hu : u.responses = s.responses) (st : Status)
    (cause : BitVec 2) (f : ResponseFields) :
    AnswersAlike s log (.next (reply st cause f u)) (.next (reply st cause f (u.withResponses log))) := by
  rintro _ ⟨⟩
  exact ⟨[responseOf st cause f u], by simp [hu], rfl⟩

theorem answersAlike_whenOpen {s : State} {log : List Response} {k k' : Result} (h : AnswersAlike s log k k') :
    AnswersAlike s log (whenOpen s k) (whenOpen (s.withResponses log) k') := by
  cases ho : s.sess with
  | closed =>
    rw [whenOpen_closed ho, whenOpen_closed (s := s.withResponses log) ho]
    exact answersAlike_reply s rfl _ _ _
  | opened => rwa [whenOpen_opened ho, whenOpen_opened (s := s.withResponses log) ho]

theorem answersAlike_whenUnlatched {s : State} {log : List Response} {k k' : Result} (h : AnswersAlike s log k k') :
    AnswersAlike s log (whenUnlatched s k) (whenUnlatched (s.withResponses log) k') := by
  cases hp : s.perr with
  | true =>
    rw [whenUnlatched_set hp, whenUnlatched_set (s := s.withResponses log) hp]
    exact answersAlike_reply s rfl _ _ _
  | false => rwa [whenUnlatched_clear hp, whenUnlatched_clear (s := s.withResponses log) hp]

theorem answersAlike_attemptFrame (maxLen : Nat) (taken : DecodedFrame → Nat) (s : State) (log : List Response) :
    AnswersAlike s log (attemptFrame maxLen taken s) (attemptFrame maxLen taken (s.withResponses log)) := by
  refine answersAlike_whenOpen (answersAlike_whenUnlatched ?_)
  rw [withResponses_rxbuf]
  cases decodeFrame maxLen s.rxbuf with
  | needMore => exact answersAlike_reply s rfl _ _ _
  | perror c => exact answersAlike_reply (setLatch c s) rfl _ _ _
  | frame d => exact answersAlike_reply (rxDrop (taken d) s) rfl _ _ _
  | badRead => rintro _ ⟨⟩

theorem answersAlike_receiveFrame (maxLen : Nat) (opc : Opcode) (f : WireFrame) (s : State) (log : List Response) :
    AnswersAlike s log (receiveFrame maxLen opc f s) (receiveFrame maxLen opc f (s.withResponses log)) := by
  refine answersAlike_whenOpen (answersAlike_whenUnlatched ?_)
  split
  · exact answersAlike_reply (setLatch .lenOverCap s) rfl _ _ _
  · exact answersAlike_reply (rxDrop f.total s) rfl _ _ _

theorem answersAlike_exec (i : Instr) (s : State) (log : List Response) :
    AnswersAlike s log (exec i s) (exec i (s.withResponses log)) := by
  cases i with
  | openSess =>
    cases ho : s.sess with
    | closed =>
      simp only [exec, execOpen, withResponses_sess, ho]
      exact answersAlike_reply (clearBlock .opened s) rfl _ _ _
    | opened =>
      simp only [exec, execOpen, withResponses_sess, ho]
      exact answersAlike_reply s rfl _ _ _
  | closeSess => exact answersAlike_whenOpen (answersAlike_reply (clearBlock .closed s) rfl _ _ _)
  | encode fin opc msk key data =>
    simp only [exec, execEncode]
    split
    · exact answersAlike_reply s rfl _ _ _
    · unfold encodeMasked
      split
      · exact answersAlike_reply s rfl _ _ _
      · exact answersAlike_reply s rfl _ _ _
  | append data =>
    refine answersAlike_whenOpen ?_
    rw [withResponses_rxbuf]
    split
    · exact answersAlike_reply (rxAppend data s) rfl _ _ _
    · exact answersAlike_reply s rfl _ _ _
  | decode => exact answersAlike_attemptFrame _ _ s log
  | recv => exact answersAlike_attemptFrame _ _ s log
  | consume n =>
    exact answersAlike_whenOpen (answersAlike_whenUnlatched
      (answersAlike_reply (rxDrop (consumeCount n s.rxbuf) s) rfl _ _ _))
  | status => exact answersAlike_reply s rfl _ _ _
  | _ => exact answersAlike_receiveFrame _ _ _ s log

/-- A step on another record of responses answers alike: at no input and at a reset nothing is added to it, and a
command adds its one response. -/
theorem answersAlike_step (s : State) (log : List Response) :
    AnswersAlike s log (step s) (step (s.withResponses log)) := by
  match hp : s.port with
  | [] =>
    rw [step_no_input hp, step_no_input (s := s.withResponses log) hp]
    rintro _ ⟨⟩
    exact ⟨[], by simp⟩
  | .reset :: rest =>
    rw [step_reset_event hp, step_reset_event (s := s.withResponses log) hp]
    rintro _ ⟨⟩
    exact ⟨[], by simp, by rw [List.append_nil]; rfl⟩
  | .command c :: rest =>
    rw [step_command hp, step_command (s := s.withResponses log) hp]
    cases decodeCommand c with
    | ok i => exact answersAlike_exec i { s with port := rest } log
    | error e => exact answersAlike_reply ({ s with port := rest }) rfl _ _ _

/-- Settles O15. -/
theorem responsesAreNotRead : Obligations.ResponsesAreNotRead :=
  fun s t log h => answersAlike_step s log t h

/-! ## A decoded frame (10_state.md R42) -/

@[simp] theorem beNat_nil : beNat [] = 0 := rfl

/-- A big-endian read inside the buffer, one byte at a time. -/
theorem beNat_read_succ {buf : List Byte} {off n : Nat} (h : off + (n + 1) ≤ buf.length) :
    beNat ((buf.drop off).take (n + 1)) =
      byteNat buf off * 2 ^ (8 * n) + beNat ((buf.drop (off + 1)).take n) := by
  have hoff : off < buf.length := by omega
  have hrest : ((buf.drop (off + 1)).take n).length = n := by simp; omega
  rw [List.drop_eq_getElem_cons hoff, List.take_succ_cons, beNat_cons, hrest, byteNat, List.getD_eq_getElem _ _ hoff]

/-- The length the decoder reads is the length field of the header in numbers (30_encoding.md R105). -/
theorem headerPayloadLen_of_payloadLenOf {buf : List Byte} {b1 : Byte} {len : Nat}
    (h : payloadLenOf buf (indOf b1) = some len) : len = headerPayloadLen buf b1 := by
  unfold payloadLenOf at h
  rcases headerInd_cases b1 with ⟨hind, hform⟩ | ⟨hind, hform⟩ | ⟨hind, hform, hnat⟩
  · simp only [hform, u16be, Option.map_eq_some_iff] at h
    obtain ⟨bs, hread, rfl⟩ := h
    obtain ⟨hle, rfl⟩ := memRead_eq_some.mp hread
    simp (disch := omega) [headerPayloadLen, hind, beNat_read_succ]
  · simp only [hform, u64be, Option.map_eq_some_iff] at h
    obtain ⟨bs, hread, rfl⟩ := h
    obtain ⟨hle, rfl⟩ := memRead_eq_some.mp hread
    simp (disch := omega) [headerPayloadLen, hind, beNat_read_succ, Nat.add_assoc]
  · simp only [hform, Option.some.injEq] at h
    have hne : headerInd b1 ≠ 126 ∧ headerInd b1 ≠ 127 := by omega
    simp [headerPayloadLen, hne, ← h, hnat]

/-- Settles O31: the decoder's inversion, with the length it read and the header's length in numbers. -/
theorem decodedFrameInvariant : Obligations.DecodedFrameInvariant := by
  intro maxLen b0 b1 tail d h
  obtain ⟨_, _, _, len, ⟨⟩, -, hlen, -, -, -, -, hmasked, hkey, hpayload, hconsumed⟩ := decodeFrame_frame h
  refine ⟨hpayload.trans (headerPayloadLen_of_payloadLenOf hlen), hkey, ?_⟩
  rw [hconsumed, hpayload, headerLen_eq, payloadStart, keyLen_eq, hmasked]

/-! ## The moves of SESS (10_state.md R31) -/

theorem exec_openSess_of_closed {s : State} (h : s.sess = .closed) :
    exec .openSess s = .next (reply .ok 0 {} (clearBlock .opened s)) := by
  simp [exec, execOpen, h]

theorem exec_closeSess_of_opened {s : State} (h : s.sess = .opened) :
    exec .closeSess s = .next (reply .ok 0 {} (clearBlock .closed s)) :=
  whenOpen_opened h _

theorem decodeCommand_openWord {c : Command} (h : c.word = 0x10000000) : decodeCommand c = .ok .openSess := by
  rw [decodeCommand_eq, if_pos h]

theorem decodeCommand_closeWord {c : Command} (h : c.word = 0x20000000) : decodeCommand c = .ok .closeSess := by
  rw [decodeCommand_eq, h, if_neg (by decide), if_pos rfl]

/-- Only the OPEN word is OPEN (30_encoding.md R94). -/
theorem word_of_decodeCommand_openSess {c : Command} (h : decodeCommand c = .ok .openSess) : c.word = 0x10000000 := by
  by_contra hw
  rw [decodeCommand_eq, if_neg hw] at h
  split_ifs at h <;> cases h

/-- Only the CLOSE word is CLOSE (30_encoding.md R94). -/
theorem word_of_decodeCommand_closeSess {c : Command} (h : decodeCommand c = .ok .closeSess) :
    c.word = 0x20000000 := by
  by_contra hw
  rw [decodeCommand_eq, if_neg hw] at h
  split_ifs at h <;> cases h

/-- A meaning that changes SESS is OPEN in a closed session or CLOSE in an open one. -/
theorem Ends.sess_moves {i : Instr} {s u : State} {st : Status} {cause : BitVec 2} {f : ResponseFields}
    (h : Ends i s st cause f u) (hne : u.sess ≠ s.sess) :
    (i = .openSess ∧ s.sess = .closed ∧ u.sess = .opened) ∨
    (i = .closeSess ∧ s.sess = .opened ∧ u.sess = .closed) := by
  cases h with
  | openIt hi ho => exact .inl ⟨hi, ho, rfl⟩
  | closeIt hi ho => exact .inr ⟨hi, ho, rfl⟩
  | _ => exact absurd rfl hne

theorem Session.eq_opened_of_ne_closed {x : Session} (h : .closed ≠ x) : x = .opened := by
  cases x with
  | closed => exact absurd rfl h
  | opened => rfl

/-- A step that changes SESS is at an OPEN word, at a CLOSE word, or at a reset event of an open session. -/
theorem step_sess_moves {s t : State} (h : step s = .next t) (hne : t.sess ≠ s.sess) :
    (∃ c rest, s.port = .command c :: rest ∧ c.word = 0x10000000 ∧ s.sess = .closed ∧ t.sess = .opened) ∨
    (∃ c rest, s.port = .command c :: rest ∧ c.word = 0x20000000 ∧ s.sess = .opened ∧ t.sess = .closed) ∨
    (∃ rest, s.port = .reset :: rest ∧ s.sess = .opened ∧ t.sess = .closed) := by
  obtain ⟨-, rfl⟩ | ⟨rest, hp, rfl⟩ | ⟨c, rest, i, st, cause, f, u, hp, hd, rfl, hends⟩ | ⟨_, _, _, -, -, rfl⟩ :=
    step_next h
  · exact absurd rfl hne
  · exact .inr (.inr ⟨rest, hp, Session.eq_opened_of_ne_closed hne, rfl⟩)
  · obtain ⟨rfl, hs, hu⟩ | ⟨rfl, hs, hu⟩ := hends.sess_moves hne
    · exact .inl ⟨c, rest, hp, word_of_decodeCommand_openSess hd, hs, hu⟩
    · exact .inr (.inl ⟨c, rest, hp, word_of_decodeCommand_closeSess hd, hs, hu⟩)
  · exact absurd rfl hne

/-- Settles O49. -/
theorem sessionMovesOnlyByOpenCloseOrReset : Obligations.SessionMovesOnlyByOpenCloseOrReset := by
  refine ⟨fun s h => ⟨_, exec_openSess_of_closed h, rfl⟩, fun s h => ⟨_, exec_closeSess_of_opened h, rfl⟩, ?_,
    fun s t => step_sess_moves⟩
  intro s t c rest hp hstep
  refine ⟨fun hw hs => ?_, fun hw hs => ?_⟩
  · rw [step_decoded_command hp (decodeCommand_openWord hw),
      exec_openSess_of_closed (s := { s with port := rest }) hs] at hstep
    cases hstep
    rfl
  · rw [step_decoded_command hp (decodeCommand_closeWord hw),
      exec_closeSess_of_opened (s := { s with port := rest }) hs] at hstep
    cases hstep
    rfl

/-! ## The fields of a response (10_state.md R41) -/

/-- The optional fields an instruction answers with, by its status: none with an error, ENCODE's output, a frame,
CONSUME's count, or none with OK of the other commands. -/
inductive Answered (i : Instr) : Status → ResponseFields → Prop where
  | error {st : Status} (hst : st ≠ .ok) : Answered i st {}
  | encoded (out : List Byte) (hi : ∃ fin opc msk key data, i = .encode fin opc msk key data) :
      Answered i .ok { out := some out }
  | frame (d : DecodedFrame) (hi : answersFrame i = true) (hd : FrameOk d) : Answered i .ok (frameFields d)
  | counted (n : Count) (k : Nat) (hi : i = .consume n) : Answered i .ok { count := some k }
  | bare (hi : i = .openSess ∨ i = .closeSess ∨ i = .status ∨ ∃ data, i = .append data) : Answered i .ok {}

theorem Ends.answered {i : Instr} {s u : State} {st : Status} {cause : BitVec 2} {f : ResponseFields}
    (h : Ends i s st cause f u) : Answered i st f := by
  cases h with
  | openIt hi => exact .bare (.inl hi)
  | closeIt hi => exact .bare (.inr (.inl hi))
  | status hi => exact .bare (.inr (.inr (.inl hi)))
  | appended data hi => exact .bare (.inr (.inr (.inr ⟨data, hi⟩)))
  | encoded out hi => exact .encoded out hi
  | frame d k hi _ _ hd => exact .frame d hi hd
  | counted n hi => exact .counted n _ hi
  | _ => exact .error (by simp)

/-- Only a protocol or an input error has a cause (60_exceptions.md R282). -/
theorem Ends.status_of_cause_ne_zero {i : Instr} {s u : State} {st : Status} {cause : BitVec 2} {f : ResponseFields}
    (h : Ends i s st cause f u) (hne : cause ≠ 0) : st = .protocolError ∨ st = .inputError := by
  cases h with
  | latched => exact .inl rfl
  | newError => exact .inl rfl
  | inputError => exact .inr rfl
  | _ => exact absurd rfl hne

/-- Settles O56: each outcome of `Answered` has exactly the fields R41 names for it. -/
theorem responseFieldsPresent : Obligations.ResponseFieldsPresent := by
  intro i s t h
  obtain ⟨st, cause, f, u, rfl, hends⟩ := exec_answers i s t h
  refine ⟨responseOf st cause f u, by simp [hends.port_responses], rfl, rfl, hends.status_of_cause_ne_zero, ?_⟩
  cases hends.answered with
  | error hst => simp [hst]
  | encoded out hi =>
    obtain ⟨fin, opc, msk, key, data, rfl⟩ := hi
    simp [answersFrame]
  | frame d hi hd =>
    have hcount (n : Count) : i ≠ .consume n := by rintro rfl; cases hi
    simp [frameFields, hi, hcount, hd.key_iff]
  | counted n k hi =>
    subst hi
    simp [answersFrame]
  | bare hi =>
    obtain rfl | rfl | rfl | ⟨data, rfl⟩ := hi <;> simp [answersFrame]

end Sys2Proof.Machine

/-! The statements of spec/20_memory.md: no read beyond RXBUF, what each command may do to its bytes and where they
stand after it, and that DECODE answers the same a second time. -/

namespace Sys2Proof.Machine

/-! ## Reads (20_memory.md R62) -/

/-- Settles O30: each read of the decoder comes after the length check that makes it defined. -/
theorem decoderReadsOnlyInsideBuffer : Obligations.DecoderReadsOnlyInsideBuffer := decodeFrame_ne_badRead

/-! ## The moves of RXBUF (20_memory.md R63) -/

/-- What an instruction may do to RXBUF: keep it, empty it, add bytes after it, or drop bytes from its front. No move
writes a byte in place. -/
inductive BufferMove (i : Instr) (buf : List Byte) : List Byte → Prop where
  | kept : BufferMove i buf buf
  | emptied (hi : i = .openSess ∨ i = .closeSess) : BufferMove i buf []
  | extended (data : List Byte) (hi : i = .append data) : BufferMove i buf (buf ++ data)
  | shortened (k : Nat) (hi : (answersFrame i = true ∧ i ≠ .decode) ∨ ∃ n, i = .consume n) :
      BufferMove i buf (buf.drop k)

theorem Ends.bufferMove {i : Instr} {s u : State} {st : Status} {cause : BitVec 2} {f : ResponseFields}
    (h : Ends i s st cause f u) : BufferMove i s.rxbuf u.rxbuf := by
  cases h with
  | openIt hi => exact .emptied (.inl hi)
  | closeIt hi => exact .emptied (.inr hi)
  | appended data hi => exact .extended data hi
  | counted n hi => exact .shortened _ (.inr ⟨n, hi⟩)
  | frame d k hi _ _ _ hk =>
    by_cases hdec : i = .decode
    · rw [hk hdec, rxDrop_zero]
      exact .kept
    · exact .shortened k (.inl ⟨hi, hdec⟩)
  | _ => exact .kept

theorem exec_bufferMove {i : Instr} {s t : State} (h : exec i s = .next t) : BufferMove i s.rxbuf t.rxbuf := by
  obtain ⟨st, cause, f, u, rfl, hends⟩ := exec_answers i s t h
  exact hends.bufferMove

section
variable {i : Instr} {buf buf' : List Byte}

theorem BufferMove.of_append {data : List Byte} (h : BufferMove (.append data) buf buf') :
    buf' = buf ∨ buf' = buf ++ data := by
  cases h with
  | kept => exact .inl rfl
  | extended _ hi => cases hi; exact .inr rfl
  | emptied hi => simp at hi
  | shortened k hi => simp [answersFrame] at hi

/-- A kept buffer is one with 0 bytes dropped. -/
theorem BufferMove.of_remove (h : BufferMove i buf buf') (hi : i = .recv ∨ ∃ n, i = .consume n) :
    ∃ k, buf' = buf.drop k := by
  cases h with
  | kept => exact ⟨0, rfl⟩
  | shortened k => exact ⟨k, rfl⟩
  | emptied he => obtain rfl | ⟨n, rfl⟩ := hi <;> simp at he
  | extended data he => obtain rfl | ⟨n, rfl⟩ := hi <;> cases he

theorem BufferMove.of_session (h : BufferMove i buf buf') (hi : i = .openSess ∨ i = .closeSess) :
    buf' = [] ∨ buf' = buf := by
  cases h with
  | kept => exact .inr rfl
  | emptied => exact .inl rfl
  | extended data he => obtain rfl | rfl := hi <;> cases he
  | shortened k he => obtain rfl | rfl := hi <;> simp [answersFrame] at he

/-- DECODE, STATUS and ENCODE have no move but to keep the buffer. -/
theorem BufferMove.of_read (h : BufferMove i buf buf')
    (hi : i = .decode ∨ i = .status ∨ ∃ fin opc msk key data, i = .encode fin opc msk key data) : buf' = buf := by
  cases h with
  | kept => rfl
  | emptied he => obtain rfl | rfl | ⟨fin, opc, msk, key, data, rfl⟩ := hi <;> simp at he
  | extended data he => obtain rfl | rfl | ⟨fin, opc, msk, key, data, rfl⟩ := hi <;> cases he
  | shortened k he => obtain rfl | rfl | ⟨fin, opc, msk, key, data, rfl⟩ := hi <;> simp [answersFrame] at he

end

/-- Settles O44: each command's moves of RXBUF, read off the one inversion of all of them. -/
theorem noByteWrittenInPlace : Obligations.NoByteWrittenInPlace := by
  refine fun s t => ⟨fun data h => ?_, fun h => ?_, fun n h => ?_, fun h => ?_, fun h => ?_, fun h off => ?_,
    fun h off => ?_, fun fin opc msk key data h off => ?_⟩
  · obtain hkept | hext := (exec_bufferMove h).of_append
    · exact ⟨[], by simp [hkept]⟩
    · exact ⟨data, hext⟩
  · exact (exec_bufferMove h).of_remove (.inl rfl)
  · exact (exec_bufferMove h).of_remove (.inr ⟨n, rfl⟩)
  · exact (exec_bufferMove h).of_session (.inl rfl)
  · exact (exec_bufferMove h).of_session (.inr rfl)
  · rw [(exec_bufferMove h).of_read (.inl rfl)]
  · rw [(exec_bufferMove h).of_read (.inr (.inl rfl))]
  · rw [(exec_bufferMove h).of_read (.inr (.inr ⟨fin, opc, msk, key, data, rfl⟩))]

/-! ## Where each byte stands (20_memory.md R61) -/

@[simp] theorem memByte_drop (buf : List Byte) (k off : Nat) : memByte (buf.drop k) off = memByte buf (k + off) :=
  List.getElem?_drop

@[simp] theorem memByte_append_length_add (buf data : List Byte) (off : Nat) :
    memByte (buf ++ data) (buf.length + off) = memByte data off := by
  simp [memByte, List.getElem?_append_right]

/-- A buffer shortened from the front lost some number of its own bytes, and each byte left stands that much further
down. -/
theorem memByte_of_drop {buf buf' : List Byte} (h : ∃ k, buf' = buf.drop k) :
    ∃ k, k ≤ buf.length ∧ buf'.length = buf.length - k ∧ ∀ off, memByte buf' off = memByte buf (k + off) := by
  obtain ⟨k, rfl⟩ := h
  have hmin : buf.drop k = buf.drop (min k buf.length) := by simp [List.drop_eq_drop_iff]
  rw [hmin]
  exact ⟨min k buf.length, Nat.min_le_right _ _, List.length_drop, memByte_drop buf _⟩

/-- Settles O43: APPEND keeps the buffer or puts its bytes after it, RECV and CONSUME drop bytes from its front. -/
theorem bufferBytesKeepTheirOrder : Obligations.BufferBytesKeepTheirOrder := by
  refine ⟨fun data s t h => ?_, fun s t h => memByte_of_drop ((exec_bufferMove h).of_remove (.inl rfl)),
    fun n s t h => memByte_of_drop ((exec_bufferMove h).of_remove (.inr ⟨n, rfl⟩))⟩
  obtain hkept | hext := (exec_bufferMove h).of_append
  · rw [hkept]
    exact ⟨fun _ _ => rfl, fun hlt => absurd hlt (Nat.lt_irrefl _)⟩
  · rw [hext]
    exact ⟨fun off hoff => memByte_append hoff data, fun _ => memByte_append_length_add s.rxbuf data⟩

/-! ## DECODE a second time (20_memory.md R70) -/

/-- The block's own state is the same: SESS, RXBUF, PERR and PCAUSE (10_state.md R30). -/
structure SameBlock (u v : State) : Prop where
  sess : u.sess = v.sess
  rxbuf : u.rxbuf = v.rxbuf
  perr : u.perr = v.perr
  pcause : u.pcause = v.pcause

/-- A response is made of the block's own state. -/
theorem SameBlock.responseOf_eq {u v : State} (h : SameBlock u v) (st : Status) (cause : BitVec 2)
    (f : ResponseFields) : responseOf st cause f u = responseOf st cause f v := by
  simp [responseOf, stateWord_congr h.sess h.perr h.pcause, h.rxbuf]

section
variable {s : State}

theorem exec_decode_closed (ho : s.sess = .closed) : exec .decode s = .next (reply .notOpen 0 {} s) :=
  whenOpen_closed ho _

theorem exec_decode_latched (ho : s.sess = .opened) (hp : s.perr = true) :
    exec .decode s = .next (reply .protocolError s.pcause {} s) :=
  (whenOpen_opened ho _).trans (whenUnlatched_set hp _)

theorem exec_decode_needMore (ho : s.sess = .opened) (hp : s.perr = false)
    (hd : decodeFrame Config.maxPayloadLen s.rxbuf = .needMore) :
    exec .decode s = .next (reply .needMore 0 {} s) := by
  rw [exec, execDecode, attemptFrame_open ho hp, hd]

theorem exec_decode_perror {c : ProtoCause} (ho : s.sess = .opened) (hp : s.perr = false)
    (hd : decodeFrame Config.maxPayloadLen s.rxbuf = .perror c) :
    exec .decode s = .next (reply .protocolError (protoCode c) {} (setLatch c s)) := by
  rw [exec, execDecode, attemptFrame_open ho hp, hd]

theorem exec_decode_frame {d : DecodedFrame} (ho : s.sess = .opened) (hp : s.perr = false)
    (hd : decodeFrame Config.maxPayloadLen s.rxbuf = .frame d) :
    exec .decode s = .next (reply .ok 0 (frameFields d) s) := by
  rw [exec, execDecode, attemptFrame_open ho hp, hd, rxDrop_zero]

end

/-- A DECODE answers alike in the state it leaves the block in. Only a new protocol error changes the block, and the
latch check then answers with the cause that was latched. -/
theorem exec_decode_repeats (s : State) :
    ∃ st cause f v, exec .decode s = .next (reply st cause f v) ∧ v.rxbuf = s.rxbuf ∧ v.responses = s.responses ∧
      ∀ u, SameBlock u v → exec .decode u = .next (reply st cause f u) := by
  cases ho : s.sess with
  | closed => exact ⟨_, _, _, s, exec_decode_closed ho, rfl, rfl, fun u hu => exec_decode_closed (hu.sess.trans ho)⟩
  | opened =>
    cases hp : s.perr with
    | true =>
      refine ⟨_, _, _, s, exec_decode_latched ho hp, rfl, rfl, fun u hu => ?_⟩
      rw [exec_decode_latched (hu.sess.trans ho) (hu.perr.trans hp), hu.pcause]
    | false =>
      cases hd : decodeFrame Config.maxPayloadLen s.rxbuf with
      | badRead => exact absurd hd (decodeFrame_ne_badRead _ _)
      | needMore =>
        exact ⟨_, _, _, s, exec_decode_needMore ho hp hd, rfl, rfl, fun u hu =>
          exec_decode_needMore (hu.sess.trans ho) (hu.perr.trans hp) (hu.rxbuf ▸ hd)⟩
      | frame d =>
        exact ⟨_, _, _, s, exec_decode_frame ho hp hd, rfl, rfl, fun u hu =>
          exec_decode_frame (hu.sess.trans ho) (hu.perr.trans hp) (hu.rxbuf ▸ hd)⟩
      | perror c =>
        refine ⟨_, _, _, setLatch c s, exec_decode_perror ho hp hd, rfl, rfl, fun u hu => ?_⟩
        rw [exec_decode_latched (hu.sess.trans ho) hu.perr, hu.pcause, setLatch_pcause]

/-- Settles O37: the second DECODE adds the first one's response, made of the same block. -/
theorem decodeIsIdempotent : Obligations.DecodeIsIdempotent := by
  intro s t u h hsess hbuf hperr hcause
  obtain ⟨st, cause, f, v, hs, hvbuf, hvresp, hrep⟩ := exec_decode_repeats s
  obtain rfl : t = reply st cause f v := (Host.Outcome.next.inj (hs.symm.trans h)).symm
  have hsame : SameBlock u v := ⟨hsess, hbuf, hperr, hcause⟩
  exact ⟨responseOf st cause f v, reply st cause f u, by simp [hvresp], hrep u hsame,
    by simp [hsame.responseOf_eq], hvbuf, hbuf⟩

end Sys2Proof.Machine

/-! The statements of spec/30_encoding.md: the command map and its decoder, the operands a command reads, the wire
decoder on the bytes of a frame, and the written form. -/

namespace Sys2Proof

/-! ## Reads at a known place -/

/-- A read that starts after `pre` and is as long as `mid` gives `mid`. -/
theorem memRead_between (pre mid post : List Byte) :
    memRead (pre ++ (mid ++ post)) pre.length mid.length = some mid := by
  rw [memRead_of_le (by simp), List.drop_left, List.take_left]

theorem memKey_between (pre : List Byte) (k : Key) (post : List Byte) :
    memKey (pre ++ (k.bytes ++ post)) pre.length = some k := by
  rw [memKey, ← key_bytes_length k, memRead_between]
  rfl

/-- Masking twice with the same key gives the bytes back (40_encode.md R151). -/
theorem maskx_maskx (k : Key) (s : List Byte) : maskx k (maskx k s) = s := by
  refine List.ext_getElem? fun j => ?_
  simp only [maskx, maskFrom_getElem?, Option.map_map]
  cases s[j]? <;> simp

/-! ## The wire decoder on the bytes of a frame (30_encoding.md R100 to R106) -/

/-- The length written after the first two bytes, in a form that holds it, is the length read (30_encoding.md R105). -/
theorem payloadLenOf_extBytes {form : LenForm} {len : Nat} (h : len < form.bound) (b0 b1 : Byte) (post : List Byte) :
    payloadLenOf (b0 :: b1 :: (extBytes form len ++ post)) (lenIndicator form len) = some len := by
  rw [payloadLenOf, formOf_lenIndicator h]
  cases form with
  | len7 =>
    have hlt : len < 2 ^ 7 := Nat.lt_trans h (by decide)
    exact congrArg some (Nat.mod_eq_of_lt hlt)
  | len16 =>
    have hread := memRead_between [b0, b1] (beBytes 2 len) post
    rw [beBytes_length] at hread
    exact (congrArg (Option.map beNat) hread).trans (congrArg some (beNat_beBytes 2 len h))
  | len64 =>
    have hread := memRead_between [b0, b1] (beBytes 8 len) post
    rw [beBytes_length] at hread
    exact (congrArg (Option.map beNat) hread).trans (congrArg some (beNat_beBytes 8 len h))

/-- Steps 6 to 8 on a buffer that holds a key and a payload after its header give the two back. -/
theorem decodePayload_frameBody {b1 : Byte} {key : Option Key} (hm : maskedOf b1 = key.isSome) (b0 : Byte)
    (header payload post : List Byte) :
    decodePayload (header ++ (frameBody key payload ++ post)) b0 b1 header.length payload.length =
      .frame ⟨finOf b0, opcOf b0, key.isSome, key, payload, header.length + keyLen key.isSome + payload.length,
        formOf (indOf b1)⟩ := by
  have hlen : ¬ (header ++ (frameBody key payload ++ post)).length <
      header.length + keyLen key.isSome + payload.length := by simp [frameBody_length]; omega
  rw [decodePayload, payloadStart, hm, if_neg hlen]
  cases key with
  | none =>
    rw [show header.length + keyLen (none : Option Key).isSome = header.length from rfl]
    simp [frameBody, memRead_between]
  | some k =>
    have hread := memRead_between (header ++ k.bytes) (maskx k payload) post
    simp only [List.append_assoc, List.length_append, key_bytes_length, maskx_length] at hread
    simp [frameBody, keyLen, hread, memKey_between, maskx_maskx]

/-- Steps 4 to 8 on a buffer whose byte 1 announces the length form and the key that follow: the cap decides
(41_decode.md R174 to R179). -/
theorem decodeLength_extBytes {b1 : Byte} {form : LenForm} {key : Option Key} {payload : List Byte}
    (hbound : payload.length < form.bound) (hmasked : maskedOf b1 = key.isSome)
    (hind : indOf b1 = lenIndicator form payload.length) (maxLen : Nat) (b0 : Byte) (post : List Byte) :
    decodeLength maxLen (b0 :: b1 :: (extBytes form payload.length ++ (frameBody key payload ++ post))) b0 b1 =
      if overCap maxLen payload.length = true then .perror .lenOverCap
      else .frame ⟨finOf b0, opcOf b0, key.isSome, key, payload, form.hlen + keyLen key.isSome + payload.length,
        form⟩ := by
  have hform : formOf (indOf b1) = form := by rw [hind, formOf_lenIndicator hbound]
  have hheader : (b0 :: b1 :: extBytes form payload.length).length = form.hlen := extBytes_length form payload.length
  have hlen : payloadLenOf (b0 :: b1 :: (extBytes form payload.length ++ (frameBody key payload ++ post)))
      (indOf b1) = some payload.length := by rw [hind, payloadLenOf_extBytes hbound]
  have hbody := decodePayload_frameBody hmasked b0 (b0 :: b1 :: extBytes form payload.length) payload post
  rw [hheader, hform] at hbody
  rw [decodeLength_of_len _ hlen, hform]
  · exact congrArg _ hbody
  · rw [hform, ← hheader]; simp

/-- The frame decoder on the bytes of a well-formed frame, whatever stands after them: the cap decides
(41_decode.md R176, R179). -/
theorem decodeFrame_frameBytes (maxLen : Nat) (opc : Opcode) {f : WireFrame} (hwf : f.wf = true) (post : List Byte) :
    decodeFrame maxLen (frameBytes f.fin opc f.form f.key f.payload ++ post) =
      if overCap maxLen f.payload.length = true then .perror .lenOverCap else .frame (Machine.decodedOf opc f) := by
  simp only [frameBytes, List.cons_append, List.nil_append, List.append_assoc]
  rw [decodeFrame_cons, if_neg (by simp), decodeLength_extBytes (of_decide_eq_true hwf) (maskedOf_byte1 _ _)
    (indOf_byte1 _ _), finOf_byte0, opcOf_byte0]
  rfl

/-- No length form holds a length over the largest 64-bit number. -/
theorem LenForm.bound_le (form : LenForm) : form.bound ≤ 2 ^ 64 := by cases form <;> decide

/-- The wire decoder's cap admits every well-formed frame. -/
theorem overCap_of_wf {f : WireFrame} (hwf : f.wf = true) : overCap (2 ^ 64 - 1) f.payload.length = false := by
  have hbound : f.payload.length < f.form.bound := of_decide_eq_true hwf
  have := f.form.bound_le
  rw [Machine.overCap_eq (by decide), decide_eq_false_iff_not]
  omega

theorem decodeWire_frameBytes (opc : Opcode) {f : WireFrame} (hwf : f.wf = true) (post : List Byte) :
    decodeWire (frameBytes f.fin opc f.form f.key f.payload ++ post) = .ok (frameInstr opc f, post) := by
  rw [decodeWire, decodeFrame_frameBytes _ _ hwf, overCap_of_wf hwf, if_neg (by decide)]
  simp only [Machine.decodedOf, ← frameBytes_length opc f, List.drop_left]

/-- Settles O22: a frame row's encoding is the bytes of its frame, and the decoder reads each part of them back. -/
theorem wireDecodeOfEncode : Obligations.WireDecodeOfEncode := by
  intro i bytes rest hwf henc
  obtain ⟨opc, f, rfl, hframe, rfl⟩ := encode_eq_wire henc
  rw [Instr.wf, hframe] at hwf
  exact decodeWire_frameBytes opc hwf rest

/-! ## The rows of the command map (30_encoding.md R94, R95) -/

/-- A row's mask covers CMDOP, so a word that selects the row has the row's CMDOP. -/
theorem cmdopOf_of_selects {r : CmdRow} {w : CmdWord} (hr : r ∈ commandTable) (h : r.selects w = true) :
    cmdopOf w = cmdopOf r.value := by
  have hmask : ∀ r ∈ commandTable, cmdopOf r.mask = 15 := by decide
  have hand : cmdopOf (w &&& r.mask) = cmdopOf w &&& cmdopOf r.mask := BitVec.extractLsb'_and
  rw [← of_decide_eq_true h, hand, hmask r hr]
  exact BitVec.and_allOnes.symm

/-- The rows do not overlap, because no two of them have the same CMDOP. -/
theorem row_unique {w : CmdWord} {r1 r2 : CmdRow} (h1 : r1 ∈ commandTable) (h2 : r2 ∈ commandTable)
    (hs1 : r1.selects w = true) (hs2 : r2.selects w = true) : r1 = r2 := by
  have hdistinct : ∀ r1 ∈ commandTable, ∀ r2 ∈ commandTable, cmdopOf r1.value = cmdopOf r2.value → r1 = r2 := by
    decide
  exact hdistinct r1 h1 r2 h2 ((cmdopOf_of_selects h1 hs1).symm.trans (cmdopOf_of_selects h2 hs2))

/-- Each command has one row. -/
theorem row_eq_of_op {r : CmdRow} {k : Nat} (hr : r ∈ commandTable) (hk : k < commandTable.length)
    (h : r.op = commandTable[k].op) : r = commandTable[k] := by
  have hdistinct : ∀ r1 ∈ commandTable, ∀ r2 ∈ commandTable, r1.op = r2.op → r1 = r2 := by decide
  exact hdistinct r hr _ (List.getElem_mem hk) h

theorem decodeCommand_of_selects {r : CmdRow} {c : Command} (hr : r ∈ commandTable) (h : r.selects c.word = true) :
    decodeCommand c = .ok (r.op.instr c) := by
  unfold decodeCommand
  cases hfind : commandTable.find? fun r => r.selects c.word with
  | none => exact absurd h (List.find?_eq_none.mp hfind r hr)
  | some r' =>
    have hs : r'.selects c.word = true := List.find?_some (p := fun r : CmdRow => r.selects c.word) hfind
    rw [row_unique (List.mem_of_find?_eq_some hfind) hr hs h]

/-- The same for the row at a place in the table. -/
theorem decodeCommand_row {c : Command} (k : Nat) (hk : k < commandTable.length)
    (h : c.word &&& commandTable[k].mask = commandTable[k].value) :
    decodeCommand c = .ok (commandTable[k].op.instr c) :=
  decodeCommand_of_selects (List.getElem_mem hk) (decide_eq_true h)

theorem decodeCommand_of_no_row {c : Command} (h : ¬ ∃ r ∈ commandTable, r.selects c.word = true) :
    decodeCommand c = .error (illegalReason c.word) := by
  have hfind : (commandTable.find? fun r => r.selects c.word) = none :=
    List.find?_eq_none.mpr fun r hr hs => h ⟨r, hr, hs⟩
  rw [decodeCommand, hfind]
  rfl

/-- The CMDOP values of the rows are 1 to 8. -/
theorem no_row_of_reserved_cmdop {w : CmdWord} (h : cmdopOf w = 0 ∨ 9 ≤ (cmdopOf w).toNat) :
    ¬ ∃ r ∈ commandTable, r.selects w = true := by
  have hrange : ∀ r ∈ commandTable, ¬ (cmdopOf r.value = 0 ∨ 9 ≤ (cmdopOf r.value).toNat) := by decide
  rintro ⟨r, hr, hs⟩
  rw [cmdopOf_of_selects hr hs] at h
  exact hrange r hr h

/-- Settles O12: each clause is a row of the table, and no row has a reserved CMDOP. -/
theorem commandMapDecodes : Obligations.CommandMapDecodes :=
  fun c => ⟨decodeCommand_row 0 (by decide), decodeCommand_row 1 (by decide), decodeCommand_row 2 (by decide),
    decodeCommand_row 3 (by decide), decodeCommand_row 4 (by decide), decodeCommand_row 5 (by decide),
    decodeCommand_row 6 (by decide), decodeCommand_row 7 (by decide),
    fun h => ⟨_, decodeCommand_of_no_row (no_row_of_reserved_cmdop h)⟩⟩

/-- A word is legal exactly when a row matches it. -/
theorem decodeCommand_ok_iff (c : Command) :
    (∃ i, decodeCommand c = .ok i) ↔ ∃ r ∈ commandTable, r.selects c.word = true := by
  refine ⟨fun ⟨i, hi⟩ => ?_, fun ⟨r, hr, hs⟩ => ⟨_, decodeCommand_of_selects hr hs⟩⟩
  by_contra hnone
  rw [decodeCommand_of_no_row hnone] at hi
  cases hi

/-- The ENCODE command decodes to the instruction it was made from: its key is there exactly when MKV = 1. -/
theorem decodeCommand_encodeWord (fin : Bool) (opc : Opcode) (msk : Bool) (key : Option KeyWord) (data : List Byte) :
    decodeCommand ⟨encodeWord fin msk key.isSome opc, data, key.getD 0, 0⟩ = .ok (.encode fin opc msk key data) := by
  obtain ⟨hfin, hmsk, hmkv, hopc⟩ := encodeWord_fields fin msk key.isSome opc
  rw [decodeCommand_encode (Laws.encodeWord_fixed_bits fin msk key.isSome opc), CmdOp.instr, hfin, hmsk, hmkv, hopc]
  cases key <;> rfl

/-- Settles O21: ENCODE by the fields of its word, every other command by the row its word selects. -/
theorem commandDecodeOfEncode : Obligations.CommandDecodeOfEncode := by
  intro i c h
  cases i with
  | encode fin opc msk key data => cases h; exact decodeCommand_encodeWord fin opc msk key data
  | openSess => cases h; exact decodeCommand_row 0 (by decide) (and_full_mask _)
  | closeSess => cases h; exact decodeCommand_row 1 (by decide) (and_full_mask _)
  | append data => cases h; exact decodeCommand_row 3 (by decide) (and_full_mask _)
  | decode => cases h; exact decodeCommand_row 4 (by decide) (and_full_mask _)
  | recv => cases h; exact decodeCommand_row 5 (by decide) (and_full_mask _)
  | consume n => cases h; exact decodeCommand_row 6 (by decide) (and_full_mask _)
  | status => cases h; exact decodeCommand_row 7 (by decide) (and_full_mask _)
  | _ => cases h

/-! ## Every opcode is treated alike (30_encoding.md R107) -/

/-- A read at offset 1 or later does not see byte 0. -/
theorem memRead_cons_succ (b : Byte) (tail : List Byte) (off n : Nat) :
    memRead (b :: tail) (off + 1) n = memRead tail off n := by
  simp [memRead, Nat.add_right_comm]

theorem withOpcode_withRead {α : Type} (opc : Opcode) (r : Option α) (k : α → FrameOutcome) :
    Machine.withOpcode opc (withRead r k) = withRead r fun a => Machine.withOpcode opc (k a) := by
  cases r <;> rfl

theorem payloadLenOf_cons (b c : Byte) (tail : List Byte) (ind : BitVec 7) :
    payloadLenOf (c :: tail) ind = payloadLenOf (b :: tail) ind := by
  simp only [payloadLenOf, u16be, u64be, memRead_cons_succ]

theorem memKey_cons_succ (b : Byte) (tail : List Byte) (off : Nat) :
    memKey (b :: tail) (off + 1) = memKey tail off := by
  rw [memKey, memKey, memRead_cons_succ]

section
variable {b c : Byte} (hfin : finOf c = finOf b) (tail : List Byte) (b1 : Byte)
include hfin

theorem decodePayload_opcode (hlen len : Nat) :
    decodePayload (c :: tail) c b1 (hlen + 1) len =
      Machine.withOpcode (opcOf c) (decodePayload (b :: tail) b b1 (hlen + 1) len) := by
  have hstart : payloadStart (hlen + 1) b1 = hlen + keyLen (maskedOf b1) + 1 := Nat.add_right_comm ..
  simp only [decodePayload, hstart, memRead_cons_succ, memKey_cons_succ, List.length_cons, hfin]
  split
  · rfl
  split
  · simp only [withOpcode_withRead]; rfl
  · rw [withOpcode_withRead]; rfl

theorem decodeLength_opcode (maxLen : Nat) :
    decodeLength maxLen (c :: tail) c b1 =
      Machine.withOpcode (opcOf c) (decodeLength maxLen (b :: tail) b b1) := by
  obtain ⟨h, hh⟩ : ∃ h, (formOf (indOf b1)).hlen = h + 1 := by cases formOf (indOf b1) <;> exact ⟨_, rfl⟩
  simp only [decodeLength, hh, payloadLenOf_cons b c, decodePayload_opcode hfin, List.length_cons]
  split
  · rfl
  rw [withOpcode_withRead]
  congr 1
  funext len
  split <;> rfl

/-- Another byte 0 with the same FIN and RSV bits changes the opcode reported and nothing else. -/
theorem decodeFrame_opcode (hrsv : rsvOf c = rsvOf b) (maxLen : Nat) :
    decodeFrame maxLen (c :: tail) = Machine.withOpcode (opcOf c) (decodeFrame maxLen (b :: tail)) := by
  cases tail with
  | nil => rfl
  | cons b1 rest =>
    rw [decodeFrame_cons, decodeFrame_cons, hrsv]
    split
    · rfl
    · exact decodeLength_opcode hfin (b1 :: rest) b1 maxLen

end

/-- The fields of a byte 0 with any RSV bits (30_encoding.md R101). -/
theorem byte0_fields (fin : Bool) (rsv : BitVec 3) (opc : Opcode) :
    finOf (BitVec.ofBool fin ++ rsv ++ opc) = fin ∧ rsvOf (BitVec.ofBool fin ++ rsv ++ opc) = rsv ∧
    opcOf (BitVec.ofBool fin ++ rsv ++ opc) = opc := by
  cases fin <;> revert rsv opc <;> decide

end Sys2Proof

namespace Sys2Proof.Machine

theorem exec_encode_of_mask {msk : Bool} {key : Option KeyWord} {mask : Option Key} {data : List Byte}
    (hmask : maskOperand msk key = .ok mask) (hlen : data.length < 2 ^ 64) (fin : Bool) (opc : Opcode) (s : State) :
    exec (.encode fin opc msk key data) s =
      .next (reply .ok 0 { out := some (frameBytes fin opc (shortestForm data.length) mask data) } s) := by
  rw [exec, execEncode, hmask]
  exact if_neg (Nat.not_le.mpr hlen)

/-- ENCODE has its mask when it needs none or has a key (40_encode.md R141). -/
theorem maskOperand_ok {msk : Bool} {key : Option KeyWord} (h : msk = true → key.isSome = true) :
    ∃ mask, maskOperand msk key = .ok mask := by
  cases msk with
  | false => exact ⟨none, rfl⟩
  | true =>
    obtain ⟨w, rfl⟩ := Option.isSome_iff_exists.mp (h rfl)
    exact ⟨some (keyOfWord w), rfl⟩

/-- Settles O34: the decoder reads OPC from byte 0 only to report it, and ENCODE writes it to byte 0 only. -/
theorem opcodesAreOpaque : Obligations.OpcodesAreOpaque := by
  refine ⟨fun maxLen fin rsv o1 o2 tail => ?_, fun fin msk key data s hkey hlen => ?_⟩
  · obtain ⟨hfin1, hrsv1, -⟩ := byte0_fields fin rsv o1
    obtain ⟨hfin2, hrsv2, hopc2⟩ := byte0_fields fin rsv o2
    have h := decodeFrame_opcode (hfin2.trans hfin1.symm) tail (hrsv2.trans hrsv1.symm) maxLen
    rwa [hopc2] at h
  · obtain ⟨mask, hmask⟩ := maskOperand_ok hkey
    exact ⟨_, fun opc => exec_encode_of_mask hmask hlen fin opc s⟩

/-! ## Illegal words and ignored operands (30_encoding.md R90, R95) -/

/-- A command word that no row matches is answered ILLEGAL_CMD. -/
theorem step_of_no_row {s : State} {c : Command} {rest : List HostInput} (hp : s.port = .command c :: rest)
    (h : ¬ ∃ r ∈ commandTable, r.selects c.word = true) :
    step s = .next (reply .illegalCmd 0 {} { s with port := rest }) := by
  rw [step_command hp, decodeCommand_of_no_row h]

/-- Settles O13. -/
theorem legalWordMatchesOneRow : Obligations.LegalWordMatchesOneRow :=
  ⟨fun _ _ _ => row_unique, decodeCommand_ok_iff, fun _ _ _ => step_of_no_row⟩

/-- ENCODE reads its key only with MSK = 1 (40_encode.md R141). -/
theorem exec_encode_key_congr {fin msk : Bool} {opc : Opcode} {k k' : Option KeyWord} {data : List Byte}
    (h : msk = true → k = k') (s : State) :
    exec (.encode fin opc msk k data) s = exec (.encode fin opc msk k' data) s := by
  cases msk with
  | false => rfl
  | true => rw [h rfl]

/-- Two commands that select a row and agree on the operands the row reads have the same meaning: of ENCODE's KEY,
MKV = 0 drops it and MSK = 0 leaves it unread. -/
theorem exec_row_congr {r : CmdRow} {c d : Command} (hr : r ∈ commandTable) (hs : r.selects c.word = true)
    (hw : c.word = d.word) (hdata : c.word &&& 0xF10FFFFF = 0x30000000 → c.data = d.data)
    (hkey : c.word &&& 0xF10FFFFF = 0x30000000 → c.word.getLsbD 26 = true → c.word.getLsbD 25 = true → c.key = d.key)
    (happend : c.word = 0x40000000 → c.data = d.data) (hconsume : c.word = 0x70000000 → c.n = d.n) (s : State) :
    exec (r.op.instr c) s = exec (r.op.instr d) s := by
  have hsel : c.word &&& r.mask = r.value := of_decide_eq_true hs
  cases hop : r.op with
  | encode =>
    obtain rfl := row_eq_of_op (k := 2) hr (by decide) hop
    rw [CmdOp.instr, CmdOp.instr, ← hw, ← hdata hsel]
    refine exec_encode_key_congr (fun hmsk => ?_) s
    cases hmkv : c.word.getLsbD 25 with
    | false => rfl
    | true => rw [hkey hsel hmsk hmkv]
  | append =>
    obtain rfl := row_eq_of_op (k := 3) hr (by decide) hop
    rw [CmdOp.instr, CmdOp.instr, happend ((and_full_mask _).symm.trans hsel)]
  | consume =>
    obtain rfl := row_eq_of_op (k := 6) hr (by decide) hop
    rw [CmdOp.instr, CmdOp.instr, hconsume ((and_full_mask _).symm.trans hsel)]
  | _ => rfl

/-- Settles O14: the word alone says which row is selected, if any, and the row says which operands are read. -/
theorem ignoredOperandsHaveNoEffect : Obligations.IgnoredOperandsHaveNoEffect := by
  intro s c d rest hw hdata hkey happend hconsume
  rw [step_command (s := { s with port := .command c :: rest }) rfl,
    step_command (s := { s with port := .command d :: rest }) rfl]
  by_cases hrow : ∃ r ∈ commandTable, r.selects c.word = true
  · obtain ⟨r, hr, hs⟩ := hrow
    rw [decodeCommand_of_selects hr hs, decodeCommand_of_selects hr (hw ▸ hs)]
    exact exec_row_congr hr hs hw hdata hkey happend hconsume _
  · rw [decodeCommand_of_no_row hrow, decodeCommand_of_no_row (hw ▸ hrow)]

/-! ## The KEY word (30_encoding.md R96) -/

/-- A byte put after a word leaves the word's own bytes, each 8 bits further up. -/
theorem extractLsb'_append_byte {w : Nat} (x : BitVec w) (b : Byte) (start : Nat) :
    (x ++ b).extractLsb' (start + 8) 8 = x.extractLsb' start 8 :=
  BitVec.extractLsb'_append_eq_of_le (Nat.le_add_left 8 start)

theorem keyOfWord_append (a b c d : Byte) : keyOfWord (a ++ b ++ c ++ d) = ⟨a, b, c, d⟩ := by
  have h0 : (a ++ b ++ c ++ d).extractLsb' 24 8 = a :=
    calc (a ++ b ++ c ++ d).extractLsb' 24 8
      _ = (a ++ b ++ c).extractLsb' 16 8 := extractLsb'_append_byte _ _ 16
      _ = (a ++ b).extractLsb' 8 8 := extractLsb'_append_byte _ _ 8
      _ = a := BitVec.extractLsb'_append_eq_left
  have h1 : (a ++ b ++ c ++ d).extractLsb' 16 8 = b :=
    calc (a ++ b ++ c ++ d).extractLsb' 16 8
      _ = (a ++ b ++ c).extractLsb' 8 8 := extractLsb'_append_byte _ _ 8
      _ = (a ++ b).extractLsb' 0 8 := extractLsb'_append_byte _ _ 0
      _ = b := BitVec.extractLsb'_append_eq_right
  have h2 : (a ++ b ++ c ++ d).extractLsb' 8 8 = c :=
    (extractLsb'_append_byte _ _ 0).trans BitVec.extractLsb'_append_eq_right
  have h3 : (a ++ b ++ c ++ d).extractLsb' 0 8 = d := BitVec.extractLsb'_append_eq_right
  rw [keyOfWord, h0, h1, h2, h3]

/-- Settles O6. -/
theorem keyWordBytes : Obligations.KeyWordBytes := ⟨keyOfWord_append, by decide, by decide⟩

/-! ## Words of the opcode table (30_encoding.md R94, R101) -/

/-- RECV at a buffer that begins with the bytes of a well-formed frame is the frame row's meaning, in any session and
latch state and under any length: both make the same checks in the same order. -/
theorem exec_recv_frameBytes {s : State} {opc : Opcode} {f : WireFrame} {post : List Byte} (hwf : f.wf = true)
    (hbuf : s.rxbuf = frameBytes f.fin opc f.form f.key f.payload ++ post) :
    exec .recv s = exec (frameInstr opc f) s := by
  rw [exec_frameInstr, exec, execRecv, attemptFrame, receiveFrame, hbuf, decodeFrame_frameBytes _ _ hwf]
  congr 2
  cases overCap Config.maxPayloadLen f.payload.length with
  | false => rfl
  | true => rfl

/-- The wire bytes of a table word are the shortest frame with its byte 0: no key and an empty payload. -/
theorem tableWireBytes_eq {w : Nat} {fin : Bool} {opc : Opcode} (h : BitVec.ofNat 8 w = byte0 fin opc) :
    tableWireBytes w = frameBytes fin opc .len7 none [] := by
  rw [tableWireBytes, h]
  rfl

theorem decodeWire_tableWireBytes {w : Nat} {fin : Bool} {opc : Opcode} (h : BitVec.ofNat 8 w = byte0 fin opc) :
    decodeWire (tableWireBytes w) = .ok (frameInstr opc ⟨fin, .len7, none, []⟩, []) := by
  rw [tableWireBytes_eq h, ← List.append_nil (frameBytes fin opc .len7 none [])]
  exact decodeWire_frameBytes opc (f := ⟨fin, .len7, none, []⟩) rfl []

theorem decodeTableWord_byte0 {w : Nat} {fin : Bool} {opc : Opcode} (h : BitVec.ofNat 8 w = byte0 fin opc) :
    decodeTableWord 8 w = some (frameInstr opc ⟨fin, .len7, none, []⟩) := by
  rw [decodeTableWord, if_neg (by decide), if_pos rfl, decodeWire_tableWireBytes h]
  rfl

/-- A byte 0 whose RSV bits are not all 0 is no row (30_encoding.md R108). -/
theorem decodeTableWord_rsv {w : Nat} (h : rsvOf (BitVec.ofNat 8 w) ≠ 0) : decodeTableWord 8 w = none := by
  rw [decodeTableWord, if_neg (by decide), if_pos rfl, decodeWire, tableWireBytes, decodeFrame_cons, if_pos h]
  rfl

theorem eq_byte0_of_rsvOf {b : Byte} (h : rsvOf b = 0) : b = byte0 (finOf b) (opcOf b) := by
  revert b; decide

/-- An 8-bit table word that decodes is byte 0 of a frame with no RSV bit. -/
theorem byte0_of_decodeTableWord {w : Nat} {i : Instr} (h : decodeTableWord 8 w = some i) :
    ∃ fin opc, BitVec.ofNat 8 w = byte0 fin opc ∧ i = frameInstr opc ⟨fin, .len7, none, []⟩ := by
  by_cases hrsv : rsvOf (BitVec.ofNat 8 w) = 0
  · have hb := eq_byte0_of_rsvOf hrsv
    rw [decodeTableWord_byte0 hb] at h
    exact ⟨_, _, hb, (Option.some.inj h).symm⟩
  · rw [decodeTableWord_rsv hrsv] at h
    cases h

theorem decodeCommand_of_decodeTableWord {w : Nat} {i : Instr} (h : decodeTableWord 32 w = some i) :
    decodeCommand (plainCommand (BitVec.ofNat 32 w)) = .ok i := by
  rw [decodeTableWord, if_pos rfl] at h
  cases hd : decodeCommand (plainCommand (BitVec.ofNat 32 w)) with
  | ok j => rw [hd] at h; exact congrArg Except.ok (Option.some.inj h)
  | error e => rw [hd] at h; cases h

/-- Settles O10: a 32-bit word is the next command, and at an 8-bit word the next command is RECV with the frame in
front of RXBUF. -/
theorem tableWordRunsNext : Obligations.TableWordRunsNext := by
  refine ⟨fun s w i h => ?_, fun s w i h => ?_⟩
  · exact step_decoded_command (s := s.withFetchWord 32 w) rfl (decodeCommand_of_decodeTableWord h)
  · obtain ⟨fin, opc, hb, rfl⟩ := byte0_of_decodeTableWord h
    have hrecv : decodeCommand (plainCommand 0x60000000) = .ok .recv :=
      decodeCommand_row 5 (by decide) (and_full_mask _)
    rw [step_decoded_command (s := s.withFetchWord 8 w) rfl hrecv]
    refine exec_recv_frameBytes (f := ⟨fin, .len7, none, []⟩) (post := s.rxbuf.drop 2) rfl ?_
    rw [← tableWireBytes_eq hb]
    rfl

/-- Settles O20: byte 0 of each row has FIN = 1, no RSV bit and the row's opcode. -/
theorem frameRowWordsDecode : Obligations.FrameRowWordsDecode := by
  have hbyte : ∀ k ∈ List.range 16, BitVec.ofNat 8 (0x80 + k) = byte0 true (BitVec.ofNat 4 k) := by decide
  unfold Obligations.FrameRowWordsDecode
  rw [List.map_congr_left fun k hk => decodeTableWord_byte0 (hbyte k hk)]
  rfl

/-! ## The written form (30_encoding.md R112, R113) -/

/-- Settles O18. -/
theorem commandWordExamples : Obligations.CommandWordExamples := by
  unfold Obligations.CommandWordExamples
  decide

/-- Settles O19: `m` is whether a key is written. -/
theorem pseudoInstructionsExpand : Obligations.PseudoInstructionsExpand :=
  ⟨fun _ _ => ⟨rfl, rfl, rfl, rfl, rfl, rfl, fun _ => rfl⟩, fun _ => ⟨rfl, rfl, rfl, rfl, rfl, rfl, fun _ => rfl⟩, rfl⟩

end Sys2Proof.Machine

/-! The statements of spec/40_encode.md: the masking transform, ENCODE's input errors, its output byte by byte, and the
round trip through the frame decoder. -/

namespace Sys2Proof

/-! ## The masking transform (40_encode.md R146, R151) -/

/-- The key byte used at index `i` is the key's byte `i mod 4` in wire order. -/
theorem key_bytes_getElem?_mod (k : Key) (i : Nat) : k.bytes[i % 4]? = some (k.byteAt i) := by
  have hlt : i % 4 < 4 := Nat.mod_lt i (by decide)
  unfold Key.byteAt
  generalize i % 4 = j at hlt
  match j, hlt with
  | 0, _ | 1, _ | 2, _ | 3, _ => rfl

/-- Settles O26: byte `i` of the transform is XORed with the key byte used at `i`. -/
theorem maskTransformBytes : Obligations.MaskTransformBytes := by
  refine fun k s => ⟨maskx_length k s, fun i b m hb hm => ?_⟩
  have hkey : k.byteAt i = m := Option.some.inj ((key_bytes_getElem?_mod k i).symm.trans hm)
  rw [maskx, maskFrom_getElem?, hb, Nat.zero_add, hkey]
  rfl

/-- Settles O27: each byte is XORed twice with the same key byte. -/
theorem maskingIsAnInvolution : Obligations.MaskingIsAnInvolution := maskx_maskx

/-! ## The header in numbers (40_encode.md R142 to R145) -/

theorem byte0_eq_ofNat (fin : Bool) (opc : Opcode) :
    byte0 fin opc = BitVec.ofNat 8 (fin.toNat * 2 ^ 7 + opc.toNat) := by
  cases fin <;> revert opc <;> decide

theorem byte1_eq_ofNat (masked : Bool) (ind : BitVec 7) :
    byte1 masked ind = BitVec.ofNat 8 (masked.toNat * 2 ^ 7 + ind.toNat) := by
  cases masked <;> revert ind <;> decide

section
variable {len : Nat}

theorem shortestForm_len7 (h : len < 126) : shortestForm len = .len7 := if_pos h

theorem shortestForm_len16 (h : 126 ≤ len) (h' : len ≤ 65535) : shortestForm len = .len16 := by
  rw [shortestForm, if_neg (Nat.not_lt.mpr h), if_pos h']

theorem shortestForm_len64 (h : 65536 ≤ len) : shortestForm len = .len64 := by
  rw [shortestForm, if_neg (by omega), if_neg (by omega)]

theorem lenIndicator_len7_toNat (h : len < 126) : (lenIndicator .len7 len).toNat = len :=
  Nat.mod_eq_of_lt (Nat.lt_trans h (by decide))

end

end Sys2Proof

namespace Sys2Proof.Machine

/-! ## How ENCODE ends (40_encode.md R141, R148) -/

theorem exec_encode_of_maskError {msk : Bool} {key : Option KeyWord} {c : InputCause}
    (hmask : maskOperand msk key = .error c) (fin : Bool) (opc : Opcode) (data : List Byte) (s : State) :
    exec (.encode fin opc msk key data) s = .next (reply .inputError (inputCode c) {} s) := by
  rw [exec, execEncode, hmask]
  rfl

/-- With its mask settled, ENCODE of a payload that no length field can hold is an input error. -/
theorem exec_encode_tooLarge {msk : Bool} {key : Option KeyWord} {mask : Option Key} {data : List Byte}
    (hmask : maskOperand msk key = .ok mask) (hlen : 2 ^ 64 ≤ data.length) (fin : Bool) (opc : Opcode) (s : State) :
    exec (.encode fin opc msk key data) s = .next (reply .inputError 2 {} s) := by
  rw [exec, execEncode, hmask]
  exact if_pos hlen

/-- ENCODE answers the same status, cause and fields in every state: its mask operand and the length of DATA decide. -/
theorem exec_encode_answer (fin : Bool) (opc : Opcode) (msk : Bool) (key : Option KeyWord) (data : List Byte) :
    ∃ st cause f, ∀ s, exec (.encode fin opc msk key data) s = .next (reply st cause f s) := by
  cases hmask : maskOperand msk key with
  | error c => exact ⟨.inputError, inputCode c, {}, exec_encode_of_maskError hmask fin opc data⟩
  | ok mask =>
    obtain hlen | hlen := Nat.lt_or_ge data.length (2 ^ 64)
    · exact ⟨_, _, _, exec_encode_of_mask hmask hlen fin opc⟩
    · exact ⟨_, _, _, exec_encode_tooLarge hmask hlen fin opc⟩

/-- Settles O25: what ENCODE answers is fixed before the state is known. -/
theorem encodeReadsAndWritesNoState : Obligations.EncodeReadsAndWritesNoState := by
  intro fin opc msk key data s t
  obtain ⟨st, cause, f, h⟩ := exec_encode_answer fin opc msk key data
  exact ⟨st, cause, f, h s, h t⟩

/-- Settles O24: the mask check comes first, and with MSK = 0 it passes whatever the key is. -/
theorem encodeInputErrors : Obligations.EncodeInputErrors := by
  refine ⟨exec_encode_of_maskError (c := .maskMissing) rfl, fun fin opc msk key data s hkey hlen => ?_,
    fun fin opc key data s => exec_encode_key_congr (fun hmsk => absurd hmsk (by decide)) s⟩
  obtain ⟨mask, hmask⟩ := maskOperand_ok hkey
  exact exec_encode_tooLarge hmask hlen fin opc s

/-! ## ENCODE's output (40_encode.md R142 to R147) -/

/-- The frame ENCODE writes: the shortest form, and the key of KEY when MSK = 1 (40_encode.md R140). -/
def encodedFrame (fin msk : Bool) (key : Option KeyWord) (data : List Byte) : WireFrame :=
  ⟨fin, shortestForm data.length, if msk = true then key.map keyOfWord else none, data⟩

section
variable {fin msk : Bool} {key : Option KeyWord} {data : List Byte}

theorem encodedFrame_wf (hlen : data.length < 2 ^ 64) : (encodedFrame fin msk key data).wf = true :=
  decide_eq_true (lt_bound_shortestForm hlen)

section
variable (hkey : msk = true → key.isSome = true)
include hkey

theorem encodedFrame_key_isSome : (encodedFrame fin msk key data).key.isSome = msk := by
  cases msk with
  | false => rfl
  | true => exact (Option.isSome_map ..).trans (hkey rfl)

theorem maskOperand_eq_encodedFrame_key : maskOperand msk key = .ok (encodedFrame fin msk key data).key := by
  cases msk with
  | false => rfl
  | true =>
    obtain ⟨w, rfl⟩ := Option.isSome_iff_exists.mp (hkey rfl)
    rfl

/-- Without an input error, ENCODE answers the bytes of its frame. -/
theorem exec_encode_encodedFrame (hlen : data.length < 2 ^ 64) (opc : Opcode) (s : State) :
    exec (.encode fin opc msk key data) s =
      .next (reply .ok 0 { out := some (frameBytes fin opc (shortestForm data.length)
        (encodedFrame fin msk key data).key data) } s) :=
  exec_encode_of_mask (maskOperand_eq_encodedFrame_key hkey) hlen fin opc s

/-- The number of bytes ENCODE writes. -/
theorem encodedFrame_total :
    (encodedFrame fin msk key data).total =
      2 + (extBytes (shortestForm data.length) data.length).length + 4 * msk.toNat + data.length := by
  have hext := extBytes_length (shortestForm data.length) data.length
  rw [WireFrame.total, encodedFrame_key_isSome hkey, keyLen_eq]
  simp only [encodedFrame]
  omega

end

end

/-- Settles O28: the output is the bytes of a well-formed frame within the cap, which the decoder reads back. -/
theorem decodeOfEncodeOutput : Obligations.DecodeOfEncodeOutput := by
  intro fin opc msk key data rest s hkey hcap
  have hlen : data.length < 2 ^ 64 := Nat.lt_of_le_of_lt (hcap.trans maxPayloadLen_le) (by decide)
  have hwf : (encodedFrame fin msk key data).wf = true := encodedFrame_wf hlen
  have hfits : overCap Config.maxPayloadLen data.length = false := by simpa [overCap_config] using hcap
  refine ⟨_, shortestForm data.length, exec_encode_encodedFrame hkey hlen opc s, ?_⟩
  have hdecode := decodeFrame_frameBytes Config.maxPayloadLen opc hwf rest
  rw [if_neg (by simp [encodedFrame, hfits]), decodedOf, encodedFrame_key_isSome hkey,
    ← frameBytes_length opc (encodedFrame fin msk key data)] at hdecode
  exact hdecode

/-- Settles O23: the parts of the output are those of the frame ENCODE writes, and the range of the length decides the
form. -/
theorem encodeOutput : Obligations.EncodeOutput := by
  intro fin opc msk key data s hkey hlen
  refine ⟨(lenIndicator (shortestForm data.length) data.length).toNat, extBytes (shortestForm data.length) data.length,
    frameBody (encodedFrame fin msk key data).key data, _, exec_encode_encodedFrame hkey hlen opc s, ?_, fun h => ?_,
    fun h h' => ?_, fun h => ?_, fun h => ?_, fun w h hw => ?_, ?_⟩
  · rw [frameBytes, byte0_eq_ofNat, byte1_eq_ofNat, encodedFrame_key_isSome hkey]
  · rw [shortestForm_len7 h]
    exact ⟨lenIndicator_len7_toNat h, rfl⟩
  · rw [shortestForm_len16 h h']
    exact ⟨rfl, by simp [extBytes, beBytes]⟩
  · rw [shortestForm_len64 h]
    exact ⟨rfl, by simp [extBytes, beBytes]⟩
  · rw [h]
    rfl
  · rw [h, hw]
    rfl
  · exact (frameBytes_length opc (encodedFrame fin msk key data)).trans (encodedFrame_total hkey)

end Sys2Proof.Machine

/-! The statements of spec/41_decode.md: the frame decoder in numbers, the outcomes that more bytes do not change, DECODE
and RECV by outcome, and the frame rows. -/

namespace Sys2Proof

/-! ## A decided outcome and more bytes (41_decode.md R182, R183) -/

/-- With the whole frame there, steps 6 to 8 read inside it. -/
theorem decodePayload_append {buf : List Byte} {b1 : Byte} {hlen len : Nat}
    (h : payloadStart hlen b1 + len ≤ buf.length) (b0 : Byte) (tail : List Byte) :
    decodePayload (buf ++ tail) b0 b1 hlen len = decodePayload buf b0 b1 hlen len := by
  have hlong : payloadStart hlen b1 + len ≤ (buf ++ tail).length := by rw [List.length_append]; omega
  rw [decodePayload, decodePayload, if_neg (Nat.not_lt.mpr hlong), if_neg (Nat.not_lt.mpr h), memRead_append h]
  cases hm : maskedOf b1 with
  | false => rfl
  | true =>
    have hkey : hlen + 4 ≤ buf.length := by simp only [payloadStart, keyLen, hm, if_true] at h; omega
    rw [memKey_append hkey]

section
variable {maxLen : Nat} {buf : List Byte}

/-- Once steps 4 to 8 decide, they decide the same on a longer buffer. -/
theorem decodeLength_append {b0 b1 : Byte} (h : decodeLength maxLen buf b0 b1 ≠ .needMore) (tail : List Byte) :
    decodeLength maxLen (buf ++ tail) b0 b1 = decodeLength maxLen buf b0 b1 := by
  have hheader : (formOf (indOf b1)).hlen ≤ buf.length := by
    by_contra hshort
    exact h (decodeLength_short (Nat.not_le.mp hshort))
  have hheader' : (formOf (indOf b1)).hlen ≤ (buf ++ tail).length := by rw [List.length_append]; omega
  obtain ⟨len, hlen⟩ := payloadLenOf_of_hlen_le hheader
  rw [decodeLength_of_len hheader hlen] at h ⊢
  rw [decodeLength_of_len hheader' ((payloadLenOf_append hheader tail).trans hlen)]
  split
  · rfl
  next hcap =>
    rw [if_neg hcap] at h
    refine decodePayload_append ?_ b0 tail
    by_contra hshort
    exact h (decodePayload_short (Nat.not_le.mp hshort))

/-- NEED_MORE is the only outcome that more bytes can change. -/
theorem decodeFrame_append (h : decodeFrame maxLen buf ≠ .needMore) (tail : List Byte) :
    decodeFrame maxLen (buf ++ tail) = decodeFrame maxLen buf := by
  rcases short_or_cons buf with hshort | ⟨b0, b1, rest, rfl⟩
  · exact absurd (decodeFrame_short hshort) h
  rw [List.cons_append, List.cons_append, decodeFrame_cons, decodeFrame_cons]
  rw [decodeFrame_cons] at h
  split
  · rfl
  next hrsv =>
    rw [if_neg hrsv] at h
    exact decodeLength_append h tail

/-- A decoded frame lies inside the buffer. -/
theorem consumed_le_length {d : DecodedFrame} (h : decodeFrame maxLen buf = .frame d) : d.consumed ≤ buf.length := by
  obtain ⟨_, _, _, _, -, -, -, -, hle, -, -, -, -, -, hconsumed⟩ := decodeFrame_frame h
  exact hconsumed ▸ hle

end

/-- Settles O32: a frame and a protocol error are not NEED_MORE. -/
theorem extensionLaw : Obligations.ExtensionLaw :=
  fun _ _ s => ⟨fun _ h => (decodeFrame_append (by simp [h]) s).trans h,
    fun _ h => (decodeFrame_append (by simp [h]) s).trans h⟩

/-- Settles O33: a decided prefix would decode to the same frame, which is longer than the prefix. -/
theorem partialBufferLaw : Obligations.PartialBufferLaw := by
  intro maxLen frame d hframe hall p q hpq hq
  subst hpq
  by_contra hdecided
  have hprefix : decodeFrame maxLen p = .frame d := (decodeFrame_append hdecided q).symm.trans hframe
  have hle : d.consumed ≤ p.length := consumed_le_length hprefix
  have hpos : 0 < q.length := List.length_pos_iff.mpr hq
  rw [hall, List.length_append] at hle
  omega

end Sys2Proof

namespace Sys2Proof.Machine

/-! ## The decoder in numbers (41_decode.md R170 to R179) -/

section
variable {buf : List Byte} {b1 : Byte}

/-- With the header there, the length read is the header's length in numbers. -/
theorem payloadLenOf_eq_headerPayloadLen (h : headerLen b1 ≤ buf.length) :
    payloadLenOf buf (indOf b1) = some (headerPayloadLen buf b1) := by
  obtain ⟨len, hlen⟩ := payloadLenOf_of_hlen_le (headerLen_eq b1 ▸ h)
  rw [hlen, headerPayloadLen_of_payloadLenOf hlen]

/-- A key whose bytes are the four at an offset inside the buffer, byte by byte. -/
theorem key_eq_of_bytes {k : Key} {off : Nat} (h : k.bytes = (buf.drop off).take 4) :
    k = ⟨buf.getD off 0, buf.getD (off + 1) 0, buf.getD (off + 2) 0, buf.getD (off + 3) 0⟩ := by
  have hbyte (j : Nat) (hj : j < 4) : k.bytes.getD j 0 = buf.getD (off + j) 0 := by
    rw [h, List.getD_eq_getElem?_getD, List.getElem?_take_of_lt hj, List.getElem?_drop, List.getD_eq_getElem?_getD]
  calc k
    _ = ⟨k.bytes.getD 0 0, k.bytes.getD 1 0, k.bytes.getD 2 0, k.bytes.getD 3 0⟩ := rfl
    _ = _ := by rw [hbyte 0 (by decide), hbyte 1 (by decide), hbyte 2 (by decide), hbyte 3 (by decide), Nat.add_zero]

/-- The key read at the end of the header is the header's key in numbers (41_decode.md R178). -/
theorem headerKey_eq {key : Option Key} (hsome : key.isSome = maskedOf b1)
    (hbytes : ∀ k, key = some k → k.bytes = (buf.drop (headerLen b1)).take 4) : headerKey buf b1 = key := by
  rw [maskedOf_eq] at hsome
  cases key with
  | none => exact if_neg (of_decide_eq_false hsome.symm)
  | some k => rw [headerKey, if_pos (of_decide_eq_true hsome.symm), ← key_eq_of_bytes (hbytes k rfl)]

/-- Steps 6 to 8 with the whole frame there, in numbers. -/
theorem decodePayload_header {len : Nat} (h : headerStart b1 + len ≤ buf.length) (b0 : Byte) :
    ∃ payload, decodePayload buf b0 b1 (headerLen b1) len =
        .frame ⟨decide (b0.toNat / 128 = 1), BitVec.ofNat 4 b0.toNat, decide (b1.toNat / 128 = 1),
          headerKey buf b1, payload, headerStart b1 + len, formOf (indOf b1)⟩ ∧
      (headerKey buf b1 = none → payload = (buf.drop (headerStart b1)).take len) ∧
      (∀ k, headerKey buf b1 = some k → payload = maskx k ((buf.drop (headerStart b1)).take len)) := by
  rw [headerStart_eq, ← headerLen_eq] at h ⊢
  obtain ⟨key, payload, hframe, -, hsome, hplain, hmasked⟩ := decodePayload_of_le (b0 := b0) h
  obtain rfl : headerKey buf b1 = key := headerKey_eq hsome fun k hk => (hmasked k hk).1
  refine ⟨payload, ?_, fun hnone => hplain ?_, fun k hk => (hmasked k hk).2⟩
  · rw [hframe, finOf_eq, opcOf_eq, maskedOf_eq]
  · rw [← hsome, hnone]
    rfl

end

section
variable {maxLen : Nat} {b0 b1 : Byte} {tail : List Byte}

theorem decodeFrame_rsv (h : b0.toNat / 16 % 8 ≠ 0) : decodeFrame maxLen (b0 :: b1 :: tail) = .perror .rsvNonzero := by
  rw [decodeFrame_cons, if_pos ((rsvOf_ne_zero_iff b0).mpr h)]

/-- With no RSV bit, steps 4 to 8 decide. -/
theorem decodeFrame_no_rsv (h : b0.toNat / 16 % 8 = 0) :
    decodeFrame maxLen (b0 :: b1 :: tail) = decodeLength maxLen (b0 :: b1 :: tail) b0 b1 := by
  rw [decodeFrame_cons, if_neg fun hrsv => (rsvOf_ne_zero_iff b0).mp hrsv h]

end

section
variable {maxLen : Nat} {buf : List Byte} {b1 : Byte}

theorem decodeLength_header_short (h : buf.length < headerLen b1) (b0 : Byte) :
    decodeLength maxLen buf b0 b1 = .needMore :=
  decodeLength_short (headerLen_eq b1 ▸ h)

/-- Steps 4 and 5 with the header there, in numbers: the cap decides (41_decode.md R175, R176). -/
theorem decodeLength_header (hcap : 65536 ≤ maxLen) (h : headerLen b1 ≤ buf.length) (b0 : Byte) :
    decodeLength maxLen buf b0 b1 =
      if maxLen < headerPayloadLen buf b1 then .perror .lenOverCap
      else decodePayload buf b0 b1 (headerLen b1) (headerPayloadLen buf b1) := by
  rw [decodeLength_of_len (headerLen_eq b1 ▸ h) (payloadLenOf_eq_headerPayloadLen h), overCap_eq hcap, headerLen_eq]
  simp only [decide_eq_true_eq]

end

/-- Settles O29: each clause is one step of the decoder, with its test in numbers. -/
theorem frameDecoderSteps : Obligations.FrameDecoderSteps := by
  refine fun maxLen hmax => ⟨fun buf => decodeFrame_short, ?_⟩
  rintro b0 b1 tail _ rfl
  refine ⟨decodeFrame_rsv, fun hrsv => ?_⟩
  rw [decodeFrame_no_rsv hrsv]
  refine ⟨fun hshort => decodeLength_header_short hshort b0, fun hheader => ?_⟩
  rw [decodeLength_header hmax hheader]
  refine ⟨fun hover => if_pos hover, fun hcap => ?_⟩
  rw [if_neg (Nat.not_lt.mpr hcap)]
  refine ⟨fun hshort => decodePayload_short ?_, fun hall => ?_⟩
  · rwa [headerLen_eq, ← headerStart_eq]
  · obtain ⟨payload, hframe, hplain, hmasked⟩ := decodePayload_header hall b0
    exact ⟨_, payload, hframe, (headerLen_eq b1).symm, hplain, hmasked⟩

/-! ## RECV by the decoder's outcome (41_decode.md R186) -/

section
variable {s : State}

theorem exec_recv_closed (ho : s.sess = .closed) : exec .recv s = .next (reply .notOpen 0 {} s) :=
  whenOpen_closed ho _

theorem exec_recv_latched (ho : s.sess = .opened) (hp : s.perr = true) :
    exec .recv s = .next (reply .protocolError s.pcause {} s) :=
  (whenOpen_opened ho _).trans (whenUnlatched_set hp _)

theorem exec_recv_needMore (ho : s.sess = .opened) (hp : s.perr = false)
    (hd : decodeFrame Config.maxPayloadLen s.rxbuf = .needMore) :
    exec .recv s = .next (reply .needMore 0 {} s) := by
  rw [exec, execRecv, attemptFrame_open ho hp, hd]

theorem exec_recv_perror {c : ProtoCause} (ho : s.sess = .opened) (hp : s.perr = false)
    (hd : decodeFrame Config.maxPayloadLen s.rxbuf = .perror c) :
    exec .recv s = .next (reply .protocolError (protoCode c) {} (setLatch c s)) := by
  rw [exec, execRecv, attemptFrame_open ho hp, hd]

theorem exec_recv_frame {d : DecodedFrame} (ho : s.sess = .opened) (hp : s.perr = false)
    (hd : decodeFrame Config.maxPayloadLen s.rxbuf = .frame d) :
    exec .recv s = .next (reply .ok 0 (frameFields d) (rxDrop d.consumed s)) := by
  rw [exec, execRecv, attemptFrame_open ho hp, hd]

end

theorem decodeCommand_recvWord {c : Command} (h : c.word = 0x60000000) : decodeCommand c = .ok .recv :=
  decodeCommand_row 5 (by decide) ((and_full_mask _).trans h)

theorem decodeCommand_decodeWord {c : Command} (h : c.word = 0x50000000) : decodeCommand c = .ok .decode :=
  decodeCommand_row 4 (by decide) ((and_full_mask _).trans h)

/-- Settles O8: the step is RECV, whose decoder reads the frame back from its bytes and then makes the row's checks in
the row's order. -/
theorem recvStepRunsFrameInFront : Obligations.RecvStepRunsFrameInFront := by
  intro s c rest i bytes tail hport hword hwf henc hbuf
  obtain ⟨opc, f, rfl, hframe, rfl⟩ := encode_eq_wire henc
  rw [Instr.wf, hframe] at hwf
  rw [step_decoded_command hport (decodeCommand_recvWord hword)]
  exact exec_recv_frameBytes (s := { s with port := rest }) hwf hbuf

/-- Settles O35: the checks and outcomes of one decode attempt, with no byte taken. -/
theorem decodeCommandEffect : Obligations.DecodeCommandEffect :=
  ⟨fun _ _ _ => decodeCommand_decodeWord rfl, fun _ => exec_decode_closed, fun _ => exec_decode_latched,
    fun _ => exec_decode_needMore, fun _ _ => exec_decode_perror, fun _ _ => exec_decode_frame⟩

/-- The state that a delivered frame leaves, with its response written out (10_state.md R41). -/
theorem reply_rxDrop (d : DecodedFrame) (k : Nat) (s : State) :
    reply .ok 0 (frameFields d) (rxDrop k s) =
      { s with rxbuf := s.rxbuf.drop k, responses := s.responses ++
        [{ frameFields d with
           status := .ok, cause := 0, state := stateWord s, rxlen := s.rxbuf.length - k }] } := by
  rw [← List.length_drop]
  rfl

/-- Settles O36: the checks and outcomes of one decode attempt, with the frame's bytes taken. -/
theorem recvCommandEffect : Obligations.RecvCommandEffect :=
  ⟨fun _ _ _ => decodeCommand_recvWord rfl, fun _ => exec_recv_closed, fun _ => exec_recv_latched,
    fun _ => exec_recv_needMore, fun _ _ => exec_recv_perror,
    fun s d ho hp hd => (exec_recv_frame ho hp hd).trans (congrArg _ (reply_rxDrop d d.consumed s))⟩

/-- Settles O52: both commands end in the state with the latch set. -/
theorem protocolErrorSetsLatch : Obligations.ProtocolErrorSetsLatch := by
  intro s c ho hp hd i hi
  have hexec : exec i s = .next (reply .protocolError (protoCode c) {} (setLatch c s)) := by
    obtain rfl | rfl : i = .decode ∨ i = .recv := by simpa using hi
    · exact exec_decode_perror ho hp hd
    · exact exec_recv_perror ho hp hd
  exact ⟨_, _, hexec, rfl, rfl, rfl, rfl, rfl, rfl, rfl⟩

/-! ## The frame rows (30_encoding.md R107, 41_decode.md R179) -/

/-- A frame row within the cap, past its checks, delivers its frame and removes its bytes. -/
theorem exec_frameInstr_delivers {s : State} {f : WireFrame} (ho : s.sess = .opened) (hp : s.perr = false)
    (hcap : f.payload.length ≤ Config.maxPayloadLen) (opc : Opcode) :
    exec (frameInstr opc f) s = .next (reply .ok 0 (frameFields (decodedOf opc f)) (rxDrop f.total s)) := by
  have hfits : overCap Config.maxPayloadLen f.payload.length = false := by simpa [overCap_config] using hcap
  rw [exec_frameInstr, receiveFrame_open ho hp, hfits, if_neg (by decide)]

/-- Settles O39: the sixteen rows are those of the opcodes 0 to 15. -/
theorem frameRowsDeliver : Obligations.FrameRowsDeliver := by
  intro row hrow f s ho hp hcap
  obtain ⟨k, -, rfl⟩ : ∃ k ∈ List.range 16, (frameInstr (BitVec.ofNat 4 k), BitVec.ofNat 4 k) = row :=
    List.mem_map.mp hrow
  exact (exec_frameInstr_delivers ho hp hcap _).trans (congrArg _ (reply_rxDrop (decodedOf _ f) f.total s))

end Sys2Proof.Machine

/-! The statements of spec/42_buffer.md: APPEND and CONSUME, CONSUME after a DECODE, and that RXBUF is what the host has
appended, less bytes dropped from the front. -/

namespace Sys2Proof.Machine

/-! ## APPEND (42_buffer.md R220) -/

/-- A capacity admits a count when it is INF or at least that large (10_state.md R32). -/
theorem admits_eq_true_iff {cap : Capacity} {n : Nat} : admits cap n = true ↔ ∀ c, cap = .finite c → n ≤ c := by
  cases cap <;> simp [admits]

section
variable {s : State} {data : List Byte}

theorem exec_append_closed (ho : s.sess = .closed) : exec (.append data) s = .next (reply .notOpen 0 {} s) :=
  whenOpen_closed ho _

theorem exec_append_overflow (ho : s.sess = .opened)
    (hf : admits Config.rxbufCap (s.rxbuf.length + data.length) = false) :
    exec (.append data) s = .next (reply .overflow 0 {} s) := by
  rw [exec, execAppend, rxbufFits_eq_admits, hf]
  exact whenOpen_opened ho _

theorem exec_append_fits (ho : s.sess = .opened)
    (hf : admits Config.rxbufCap (s.rxbuf.length + data.length) = true) :
    exec (.append data) s = .next (reply .ok 0 {} (rxAppend data s)) := by
  rw [exec, execAppend, rxbufFits_eq_admits, hf]
  exact whenOpen_opened ho _

end

theorem decodeCommand_appendWord {c : Command} (h : c.word = 0x40000000) : decodeCommand c = .ok (.append c.data) :=
  decodeCommand_row 3 (by decide) ((and_full_mask _).trans h)

/-- The state that an APPEND which fits leaves, with its response written out (10_state.md R41). -/
theorem reply_rxAppend (data : List Byte) (s : State) :
    reply .ok 0 {} (rxAppend data s) =
      { s with rxbuf := s.rxbuf ++ data, responses := s.responses ++
        [{ status := .ok, cause := 0, state := stateWord s, rxlen := s.rxbuf.length + data.length }] } := by
  rw [← List.length_append]
  rfl

/-- Settles O41: the session check, then whether the capacity admits the buffer with the bytes added. -/
theorem appendCommandEffect : Obligations.AppendCommandEffect := by
  refine ⟨fun _ _ _ => decodeCommand_appendWord rfl, fun _ _ => exec_append_closed, ?_, ?_⟩
  · intro data s cap ho hcap hover
    refine exec_append_overflow ho ?_
    rw [hcap]
    exact decide_eq_false (Nat.not_le.mpr hover)
  · intro data s ho hfits
    exact (exec_append_fits ho (admits_eq_true_iff.mpr hfits)).trans (congrArg _ (reply_rxAppend data s))

/-! ## CONSUME (42_buffer.md R222) -/

section
variable {s : State} {n : Count}

theorem exec_consume_closed (ho : s.sess = .closed) : exec (.consume n) s = .next (reply .notOpen 0 {} s) :=
  whenOpen_closed ho _

theorem exec_consume_latched (ho : s.sess = .opened) (hp : s.perr = true) :
    exec (.consume n) s = .next (reply .protocolError s.pcause {} s) :=
  (whenOpen_opened ho _).trans (whenUnlatched_set hp _)

theorem exec_consume_open (ho : s.sess = .opened) (hp : s.perr = false) :
    exec (.consume n) s =
      .next (reply .ok 0 { count := some (consumeCount n s.rxbuf) } (rxDrop (consumeCount n s.rxbuf) s)) :=
  (whenOpen_opened ho _).trans (whenUnlatched_clear hp _)

end

theorem decodeCommand_consumeWord {c : Command} (h : c.word = 0x70000000) : decodeCommand c = .ok (.consume c.n) :=
  decodeCommand_row 6 (by decide) ((and_full_mask _).trans h)

/-- The state that a CONSUME past its checks leaves, with its response written out (10_state.md R41). -/
theorem reply_rxDrop_counted (k : Nat) (s : State) :
    reply .ok 0 { count := some k } (rxDrop k s) =
      { s with rxbuf := s.rxbuf.drop k, responses := s.responses ++
        [{ status := .ok, cause := 0, state := stateWord s, rxlen := s.rxbuf.length - k, count := some k }] } := by
  rw [← List.length_drop]
  rfl

/-- Settles O42: the session check, the latch check, then the bytes counted leave the buffer. -/
theorem consumeCommandEffect : Obligations.ConsumeCommandEffect :=
  ⟨fun _ _ _ => decodeCommand_consumeWord rfl, fun _ _ => exec_consume_closed, fun _ _ => exec_consume_latched,
    fun _ s ho hp => (exec_consume_open ho hp).trans (congrArg _ (reply_rxDrop_counted _ s))⟩

/-! ## CONSUME after DECODE (42_buffer.md R223) -/

/-- DECODE answers OK only with a frame in front of an open, unlatched buffer. -/
theorem exec_decode_frame_or_not_ok (s : State) :
    (∃ d, s.sess = .opened ∧ s.perr = false ∧ decodeFrame Config.maxPayloadLen s.rxbuf = .frame d) ∨
    ∃ st cause u, exec .decode s = .next (reply st cause {} u) ∧ u.responses = s.responses ∧ st ≠ .ok := by
  cases ho : s.sess with
  | closed => exact .inr ⟨_, _, s, exec_decode_closed ho, rfl, by simp⟩
  | opened =>
    cases hp : s.perr with
    | true => exact .inr ⟨_, _, s, exec_decode_latched ho hp, rfl, by simp⟩
    | false =>
      cases hd : decodeFrame Config.maxPayloadLen s.rxbuf with
      | badRead => exact absurd hd (decodeFrame_ne_badRead _ _)
      | needMore => exact .inr ⟨_, _, s, exec_decode_needMore ho hp hd, rfl, by simp⟩
      | perror c => exact .inr ⟨_, _, setLatch c s, exec_decode_perror ho hp hd, rfl, by simp⟩
      | frame d => exact .inl ⟨d, rfl, rfl, rfl⟩

/-- A DECODE that answers OK found a frame, answered with it, and changed nothing else. -/
theorem frame_of_exec_decode_ok {s t : State} {r : Response} (h : exec .decode s = .next t)
    (hr : t.responses = s.responses ++ [r]) (hok : r.status = .ok) :
    ∃ d, s.sess = .opened ∧ s.perr = false ∧ decodeFrame Config.maxPayloadLen s.rxbuf = .frame d ∧
      t = reply .ok 0 (frameFields d) s ∧ r = responseOf .ok 0 (frameFields d) s := by
  obtain ⟨d, ho, hp, hd⟩ | ⟨st, cause, u, hu, hlog, hst⟩ := exec_decode_frame_or_not_ok s
  · obtain rfl := Host.Outcome.next.inj (h.symm.trans (exec_decode_frame ho hp hd))
    exact ⟨d, ho, hp, hd, rfl, by simpa using hr.symm⟩
  · obtain rfl := Host.Outcome.next.inj (h.symm.trans hu)
    obtain rfl : responseOf st cause {} u = r := by simpa [hlog] using hr
    exact absurd hok hst

/-- A count that N can hold and the buffer has is consumed in full (30_encoding.md R97, 42_buffer.md R222). -/
theorem consumeCount_ofNat {n : Nat} {buf : List Byte} (hn : n < 2 ^ 64) (hle : n ≤ buf.length) :
    consumeCount (BitVec.ofNat 64 n) buf = n := by
  rw [consumeCount, BitVec.toNat_ofNat, Nat.mod_eq_of_lt hn, Nat.min_eq_left hle]

/-- Settles O38: a decoded frame lies inside the buffer, so CONSUME removes all of it, as RECV does. -/
theorem decodeThenConsumeIsRecv : Obligations.DecodeThenConsumeIsRecv := by
  intro s t r n h hr hok hconsumed hn
  obtain ⟨d, ho, hp, hd, rfl, rfl⟩ := frame_of_exec_decode_ok h hr hok
  obtain rfl : d.consumed = n := Option.some.inj hconsumed
  refine ⟨_, _, exec_consume_open ho hp, exec_recv_frame ho hp hd, ?_, rfl, rfl, rfl⟩
  simp [consumeCount_ofNat hn (consumed_le_length hd)]

/-! ## The bytes appended since the last OPEN (42_buffer.md R224)

What is left of a list after a drop from its front is a suffix of it, so the relation is written `s.rxbuf <:+ hist`. -/

theorem exists_eq_drop_iff_suffix {buf hist : List Byte} : (∃ k, buf = hist.drop k) ↔ buf <:+ hist :=
  ⟨fun ⟨k, hk⟩ => hk ▸ List.drop_suffix k hist, fun hs => ⟨_, List.suffix_iff_eq_drop.mp hs⟩⟩

section
variable {s t : State} {c : Command} {rest : List HostInput}

theorem nextHistory_no_input (hport : s.port = []) (hist : List Byte) : nextHistory s hist = hist := by
  simp only [nextHistory, hport]

theorem nextHistory_illegal {e : DecodeError} (hport : s.port = .command c :: rest)
    (hd : decodeCommand c = .error e) (hist : List Byte) : nextHistory s hist = hist := by
  simp only [nextHistory, hport, hd]

theorem nextHistory_openSess (hport : s.port = .command c :: rest) (hd : decodeCommand c = .ok .openSess)
    (hist : List Byte) : nextHistory s hist = if s.sess = .closed then [] else hist := by
  simp only [nextHistory, hport, hd]

theorem nextHistory_append {data : List Byte} (hport : s.port = .command c :: rest)
    (hd : decodeCommand c = .ok (.append data)) (hist : List Byte) :
    nextHistory s hist =
      if s.sess = .opened ∧ admits Config.rxbufCap (s.rxbuf.length + data.length) = true then hist ++ data
      else hist := by
  simp only [nextHistory, hport, hd]

/-- Only OPEN and APPEND change the history. -/
theorem nextHistory_of_ne {i : Instr} (hport : s.port = .command c :: rest) (hd : decodeCommand c = .ok i)
    (hopen : i ≠ .openSess) (happend : ∀ data, i ≠ .append data) (hist : List Byte) :
    nextHistory s hist = hist := by
  simp only [nextHistory, hport, hd]
  cases i with
  | openSess => exact absurd rfl hopen
  | append data => exact absurd rfl (happend data)
  | _ => rfl

theorem exec_openSess_of_opened (ho : s.sess = .opened) :
    exec .openSess s = .next (reply .stateError 0 {} s) := by
  simp [exec, execOpen, ho]

/-- OPEN empties the buffer in a closed session, where it empties the history, and else keeps it. -/
theorem exec_openSess_rxbuf (h : exec .openSess s = .next t) :
    t.rxbuf = if s.sess = .closed then [] else s.rxbuf := by
  cases ho : s.sess with
  | closed =>
    rw [exec_openSess_of_closed ho] at h
    cases h
    rfl
  | opened =>
    rw [exec_openSess_of_opened ho] at h
    cases h
    rfl

/-- APPEND extends the buffer where it extends the history, and else keeps it. -/
theorem exec_append_rxbuf {data : List Byte} (h : exec (.append data) s = .next t) :
    t.rxbuf =
      if s.sess = .opened ∧ admits Config.rxbufCap (s.rxbuf.length + data.length) = true then s.rxbuf ++ data
      else s.rxbuf := by
  cases ho : s.sess with
  | closed =>
    rw [exec_append_closed ho] at h
    cases h
    rfl
  | opened =>
    cases hf : admits Config.rxbufCap (s.rxbuf.length + data.length) with
    | false =>
      rw [exec_append_overflow ho hf] at h
      cases h
      rfl
    | true =>
      rw [exec_append_fits ho hf] at h
      cases h
      rfl

/-- Bytes leave the buffer from the front only. -/
theorem BufferMove.suffix {i : Instr} {buf buf' : List Byte} (h : BufferMove i buf buf')
    (happend : ∀ data, i ≠ .append data) : buf' <:+ buf := by
  cases h with
  | kept => exact List.suffix_rfl
  | emptied => exact List.nil_suffix
  | extended data hi => exact absurd hi (happend data)
  | shortened k => exact List.drop_suffix k buf

/-- A decoded command keeps the buffer a suffix of the history: OPEN and APPEND do to both alike, and every other
command keeps the history and only drops bytes from the front of the buffer. -/
theorem exec_keeps_suffix_history {i : Instr} {hist : List Byte} (hport : s.port = .command c :: rest)
    (hd : decodeCommand c = .ok i) (hexec : exec i { s with port := rest } = .next t) (hs : s.rxbuf <:+ hist) :
    t.rxbuf <:+ nextHistory s hist := by
  cases i with
  | openSess =>
    rw [exec_openSess_rxbuf hexec, nextHistory_openSess hport hd]
    split
    · exact List.nil_suffix
    · exact hs
  | append data =>
    rw [exec_append_rxbuf hexec, nextHistory_append hport hd]
    split
    · exact List.suffix_append_self_iff.mpr hs
    · exact hs
  | _ =>
    rw [nextHistory_of_ne hport hd nofun nofun]
    exact ((exec_bufferMove hexec).suffix nofun).trans hs

theorem step_keeps_suffix_history {hist : List Byte} (hstep : step s = .next t) (hs : s.rxbuf <:+ hist) :
    t.rxbuf <:+ nextHistory s hist := by
  match hport : s.port with
  | [] =>
    rw [step_no_input hport] at hstep
    cases hstep
    rwa [nextHistory_no_input hport]
  | .reset :: rest =>
    rw [step_reset_event hport] at hstep
    cases hstep
    exact List.nil_suffix
  | .command c :: rest =>
    rw [step_command hport] at hstep
    cases hd : decodeCommand c with
    | ok i =>
      rw [hd] at hstep
      exact exec_keeps_suffix_history hport hd hstep hs
    | error e =>
      rw [hd] at hstep
      cases hstep
      rwa [nextHistory_illegal hport hd]

end

/-- Settles O45: at reset the buffer is empty, and a step keeps it a suffix of the history. -/
theorem bufferIsHistoryLessAPrefix : Obligations.BufferIsHistoryLessAPrefix := by
  simp only [Obligations.BufferIsHistoryLessAPrefix, exists_eq_drop_iff_suffix]
  exact ⟨List.nil_suffix, fun _ _ _ => step_keeps_suffix_history⟩

end Sys2Proof.Machine

/-! The statements of spec/43_session.md: OPEN, CLOSE, STATUS, and a command word outside the command map. -/

namespace Sys2Proof

/-! ## Words outside the command map (30_encoding.md R94, 43_session.md R253) -/

/-- The words that match a row: seven exact words, and the ENCODE words under their mask. -/
theorem exists_row_iff (w : CmdWord) :
    (∃ r ∈ commandTable, r.selects w = true) ↔
      w = 0x10000000 ∨ w = 0x20000000 ∨ w &&& 0xF10FFFFF = 0x30000000 ∨ w = 0x40000000 ∨ w = 0x50000000 ∨
        w = 0x60000000 ∨ w = 0x70000000 ∨ w = 0x80000000 := by
  have hencode : (CmdRow.mk .encode 0x30000000 0xF10FFFFF).selects w = decide (w &&& 0xF10FFFFF = 0x30000000) := rfl
  simp only [commandTable, List.exists_mem_cons_iff, List.not_mem_nil, false_and, exists_false, or_false, selects_full,
    hencode, decide_eq_true_eq]

/-- The five examples of 43_session.md R253 match no row. -/
theorem no_row_of_illegal_example {w : CmdWord}
    (h : w ∈ [0x00000000#32, 0x90000000, 0x10000001, 0x31000000, 0x30000001]) :
    ¬ ∃ r ∈ commandTable, r.selects w = true := by
  simp only [List.mem_cons, List.not_mem_nil, or_false] at h
  rw [exists_row_iff]
  rcases h with rfl | rfl | rfl | rfl | rfl <;> decide

end Sys2Proof

namespace Sys2Proof.Machine

/-- Settles O11: a word that is none of the map's matches no row, and neither do the examples. -/
theorem illegalWordAnswered : Obligations.IllegalWordAnswered := by
  refine ⟨fun s c rest hport h1 h2 h3 h4 h5 h6 h7 h8 => ?_, fun s c rest hport hword => ?_⟩
  · refine step_of_no_row hport fun hrow => ?_
    simpa only [h1, h2, h3, h4, h5, h6, h7, h8, or_false] using (exists_row_iff c.word).mp hrow
  · exact step_of_no_row hport (no_row_of_illegal_example hword)

/-! ## OPEN, CLOSE and STATUS (43_session.md R250 to R252) -/

theorem exec_closeSess_of_closed {s : State} (h : s.sess = .closed) :
    exec .closeSess s = .next (reply .notOpen 0 {} s) :=
  whenOpen_closed h _

theorem exec_status (s : State) : exec .status s = .next (reply .ok 0 {} s) := rfl

theorem decodeCommand_statusWord {c : Command} (h : c.word = 0x80000000) : decodeCommand c = .ok .status :=
  decodeCommand_row 7 (by decide) ((and_full_mask _).trans h)

/-- The state that OPEN and CLOSE leave when they succeed, with its response written out (10_state.md R37, R41). -/
theorem reply_clearBlock (x : Session) (s : State) :
    reply .ok 0 {} (clearBlock x s) =
      { s with
        sess := x, rxbuf := [], perr := false, pcause := 0
        responses := s.responses ++
          [{ status := .ok, cause := 0, state := match x with | .closed => 0x00000000 | .opened => 0x00000001,
             rxlen := 0 }] } := by
  rw [reply, responseOf, stateWord_clearBlock]
  rfl

/-- Settles O46: the session decides, and a closed one ends cleared and open. -/
theorem openCommandEffect : Obligations.OpenCommandEffect :=
  ⟨fun _ _ _ => decodeCommand_openWord rfl, fun _ => exec_openSess_of_opened,
    fun s ho => (exec_openSess_of_closed ho).trans (congrArg _ (reply_clearBlock .opened s))⟩

/-- Settles O47: the session decides, and an open one ends cleared and closed. -/
theorem closeCommandEffect : Obligations.CloseCommandEffect :=
  ⟨fun _ _ _ => decodeCommand_closeWord rfl, fun _ => exec_closeSess_of_closed,
    fun s ho => (exec_closeSess_of_opened ho).trans (congrArg _ (reply_clearBlock .closed s))⟩

/-- Settles O48. -/
theorem statusCommandEffect : Obligations.StatusCommandEffect :=
  ⟨fun _ _ _ => decodeCommand_statusWord rfl, exec_status⟩

end Sys2Proof.Machine

/-! The statements of spec/60_exceptions.md: the status and cause codes, the order of the checks, what an error writes,
the way out of a latched error, and the form of every response. -/

namespace Sys2Proof.Machine

/-! ## Every response is well formed (60_exceptions.md R282, 10_state.md R37, R41) -/

/-- Bits 31:4 of the STATE word are 0 (10_state.md R37). -/
theorem stateWord_lt_sixteen (s : State) : (stateWord s).toNat < 16 := by
  obtain ⟨-, -, -, hreserved⟩ := stateWordFields s
  have hdiv : (stateWord s).toNat / 16 % 2 ^ 28 = 0 := by
    simpa [BitVec.extractLsb'_toNat, Nat.shiftRight_eq_div_pow] using congrArg BitVec.toNat hreserved
  have hword := (stateWord s).isLt
  omega

theorem fieldsOk_frameFields {d : DecodedFrame} (h : FrameOk d) : FieldsOk (frameFields d) := by
  obtain ⟨hkey, hlen, hcases, hconsumed⟩ := h
  exact .frame _ d.payload d.fin d.masked d.opc hlen (by simp [frameFields, hconsumed]) hkey hcases

theorem Answered.fieldsOk {i : Instr} {st : Status} {f : ResponseFields} (h : Answered i st f) : FieldsOk f := by
  cases h with
  | error => exact .bare
  | bare => exact .bare
  | encoded out => exact .encoded out
  | frame d _ hd => exact fieldsOk_frameFields hd
  | counted _ k => exact .counted k

theorem Answered.bare_of_not_ok {i : Instr} {st : Status} {f : ResponseFields} (h : Answered i st f)
    (hst : st ≠ .ok) : f = {} := by
  cases h with
  | error => rfl
  | _ => exact absurd rfl hst

theorem protoCode_eq_one_or_two (c : ProtoCause) : protoCode c = 1 ∨ protoCode c = 2 := by cases c <;> decide

theorem inputCode_eq_one_or_two (c : InputCause) : inputCode c = 1 ∨ inputCode c = 2 := by cases c <;> decide

/-- A latched cause is one of the two that have a name (10_state.md R35, R36). -/
theorem Inv.pcause_eq_one_or_two {s : State} (h : Inv s) (hp : s.perr = true) : s.pcause = 1 ∨ s.pcause = 2 := by
  have hzero : s.pcause ≠ 0 := fun h0 => by simp [h.latch_iff_cause.mpr h0] at hp
  have hthree := h.cause_used
  generalize s.pcause = cause at hzero hthree
  revert cause
  decide

theorem Ends.cause_named {i : Instr} {s u : State} {st : Status} {cause : BitVec 2} {f : ResponseFields}
    (h : Ends i s st cause f u) (hs : Inv s) (hst : st = .protocolError ∨ st = .inputError) :
    cause = 1 ∨ cause = 2 := by
  cases h with
  | latched _ _ hp => exact hs.pcause_eq_one_or_two hp
  | newError c => exact protoCode_eq_one_or_two c
  | inputError c => exact inputCode_eq_one_or_two c
  | _ => simp at hst

/-- The response of a meaning is well formed when the state it starts in satisfies the invariants: a refusal from the
latch answers with the cause the state holds. -/
theorem Ends.responseOk {i : Instr} {s u : State} {st : Status} {cause : BitVec 2} {f : ResponseFields}
    (h : Ends i s st cause f u) (hs : Inv s) : ResponseOk (responseOf st cause f u) where
  fields := h.answered.fieldsOk
  bare_unless_ok := h.answered.bare_of_not_ok
  cause_named := h.cause_named hs
  cause_zero hproto hinput := by
    by_contra hne
    exact (h.status_of_cause_ne_zero hne).elim hproto hinput
  reserved_zero := stateWord_lt_sixteen u

theorem responseOk_illegalCmd (s : State) : ResponseOk (responseOf .illegalCmd 0 {} s) where
  fields := .bare
  bare_unless_ok _ := rfl
  cause_named h := by simp at h
  cause_zero _ _ := rfl
  reserved_zero := stateWord_lt_sixteen s

theorem responsesOk_reply {u : State} {st : Status} {cause : BitVec 2} {f : ResponseFields}
    (hu : ∀ r ∈ u.responses, ResponseOk r) (hr : ResponseOk (responseOf st cause f u)) :
    ∀ r ∈ (reply st cause f u).responses, ResponseOk r :=
  List.forall_mem_append.mpr ⟨hu, List.forall_mem_singleton.mpr hr⟩

theorem step_keeps_responsesOk {s t : State} (hs : Inv s) (hlog : ∀ r ∈ s.responses, ResponseOk r)
    (h : step s = .next t) : ∀ r ∈ t.responses, ResponseOk r := by
  obtain ⟨-, rfl⟩ | ⟨rest, -, rfl⟩ | ⟨c, rest, i, st, cause, f, u, -, -, rfl, hends⟩ | ⟨c, rest, e, -, -, rfl⟩ :=
    step_next h
  · exact hlog
  · exact hlog
  · refine responsesOk_reply ?_ (hends.responseOk (hs.congr rfl rfl rfl rfl))
    rwa [hends.port_responses.2]
  · exact responsesOk_reply hlog (responseOk_illegalCmd _)

/-- Settles O59: a step adds no response, ILLEGAL_CMD, or the response of a meaning. -/
theorem stepKeepsResponsesWellFormed : Obligations.StepKeepsResponsesWellFormed :=
  ⟨List.forall_mem_nil _, fun _ _ => step_keeps_responsesOk⟩

/-! ## Where a frame row is turned away (60_exceptions.md R285, 41_decode.md R176, R188) -/

section
variable {s : State}

theorem exec_frameInstr_closed (ho : s.sess = .closed) (opc : Opcode) (f : WireFrame) :
    exec (frameInstr opc f) s = .next (reply .notOpen 0 {} s) :=
  (exec_frameInstr opc f s).trans (whenOpen_closed ho _)

theorem exec_frameInstr_latched (ho : s.sess = .opened) (hp : s.perr = true) (opc : Opcode) (f : WireFrame) :
    exec (frameInstr opc f) s = .next (reply .protocolError s.pcause {} s) :=
  (exec_frameInstr opc f s).trans ((whenOpen_opened ho _).trans (whenUnlatched_set hp _))

theorem exec_frameInstr_overCap {f : WireFrame} (ho : s.sess = .opened) (hp : s.perr = false)
    (hcap : Config.maxPayloadLen < f.payload.length) (opc : Opcode) :
    exec (frameInstr opc f) s =
      .next (reply .protocolError (protoCode .lenOverCap) {} (setLatch .lenOverCap s)) := by
  have hover : overCap Config.maxPayloadLen f.payload.length = true := by simpa [overCap_config] using hcap
  rw [exec_frameInstr, receiveFrame_open ho hp, if_pos hover]

end

/-- Settles O40: the sixteen rows are those of the opcodes 0 to 15, and each makes the same three checks. -/
theorem frameRowsTurnedAway : Obligations.FrameRowsTurnedAway := by
  intro row hrow f s
  obtain ⟨k, -, rfl⟩ : ∃ k ∈ List.range 16, frameInstr (BitVec.ofNat 4 k) = row := List.mem_map.mp hrow
  exact ⟨fun ho => exec_frameInstr_closed ho _ f, fun ho hp => exec_frameInstr_latched ho hp _ f,
    fun ho hp hcap => exec_frameInstr_overCap ho hp hcap _⟩

/-! ## What an error writes (60_exceptions.md R284) -/

/-- The state an error leaves, by its status and cause: the one it found, or with a new protocol error the one with the
latch set. -/
inductive ErrorWrites (s : State) : Status → BitVec 2 → State → Prop where
  | nothing {st : Status} {cause : BitVec 2} (hst : st = .protocolError → s.perr = true) : ErrorWrites s st cause s
  | latch (c : ProtoCause) (hp : s.perr = false) : ErrorWrites s .protocolError (protoCode c) (setLatch c s)

theorem Ends.errorWrites {i : Instr} {s u : State} {st : Status} {cause : BitVec 2} {f : ResponseFields}
    (h : Ends i s st cause f u) (hst : st ≠ .ok) : ErrorWrites s st cause u := by
  cases h with
  | latched _ _ hp => exact .nothing fun _ => hp
  | newError c _ _ hp => exact .latch c hp
  | notOpen | stateError | needMore | inputError | overflow => exact .nothing nofun
  | _ => exact absurd rfl hst

/-- A command step whose one new response is not OK writes what its status and cause say. -/
theorem step_command_errorWrites {s t : State} {r : Response} {c : Command} {rest : List HostInput}
    (hport : s.port = .command c :: rest) (h : step s = .next t) (hr : t.responses = s.responses ++ [r])
    (hst : r.status ≠ .ok) :
    ∃ f u, t = reply r.status r.cause f u ∧ ErrorWrites { s with port := rest } r.status r.cause u := by
  rw [step_command hport] at h
  cases hd : decodeCommand c with
  | ok i =>
    rw [hd] at h
    obtain ⟨st, cause, f, u, rfl, hends⟩ := exec_answers i _ t h
    obtain rfl : responseOf st cause f u = r := by simpa [hends.port_responses] using hr
    exact ⟨f, u, rfl, hends.errorWrites hst⟩
  | error e =>
    rw [hd] at h
    cases h
    obtain rfl : responseOf .illegalCmd 0 {} { s with port := rest } = r := by simpa using hr
    exact ⟨{}, _, rfl, .nothing nofun⟩

/-- Settles O53: an error writes nothing, or it is a new protocol error and sets the latch. -/
theorem errorsWriteNothingElse : Obligations.ErrorsWriteNothingElse := by
  intro s t r c rest hport h hr hst
  obtain ⟨f, u, rfl, hwrites⟩ := step_command_errorWrites hport h hr hst
  generalize r.status = st, r.cause = cause at hwrites ⊢
  cases hwrites with
  | nothing hlatched =>
    exact ⟨rfl, rfl, fun _ => ⟨rfl, rfl⟩, fun _ => ⟨rfl, rfl⟩, fun hproto hp =>
      absurd (hlatched hproto) (Bool.eq_false_iff.mp hp)⟩
  | latch cause hp =>
    exact ⟨rfl, rfl, fun hne => absurd rfl hne, fun hset =>
      absurd hset (Bool.eq_false_iff.mp hp), fun _ _ => ⟨rfl, rfl⟩⟩

/-! ## The way out of a latched error (60_exceptions.md R289) -/

/-- In an open session with the latch set, only CLOSE writes PERR and PCAUSE. -/
theorem Ends.keeps_latch {i : Instr} {s u : State} {st : Status} {cause : BitVec 2} {f : ResponseFields}
    (h : Ends i s st cause f u) (ho : s.sess = .opened) (hp : s.perr = true) (hi : i ≠ .closeSess) :
    u.perr = true ∧ u.pcause = s.pcause := by
  cases h with
  | openIt _ hclosed => simp [ho] at hclosed
  | closeIt hclose => exact absurd hclose hi
  | newError _ _ _ hclear => simp [hp] at hclear
  | _ => exact ⟨hp, rfl⟩

/-- The latch is set in an open session only (10_state.md R36). -/
theorem Inv.opened_of_latched {s : State} (h : Inv s) (hp : s.perr = true) : s.sess = .opened := by
  cases ho : s.sess with
  | opened => rfl
  | closed =>
    obtain ⟨-, hclear, -⟩ := h.closed_clear ho
    simp [hp] at hclear

/-- Settles O55: the latched session is open, where every meaning but CLOSE keeps the latch. -/
theorem latchLeftOnlyByCloseOrReset : Obligations.LatchLeftOnlyByCloseOrReset := by
  intro s t hs h hp
  obtain ⟨-, rfl⟩ | ⟨rest, hport, -⟩ | ⟨c, rest, i, st, cause, f, u, hport, hd, rfl, hends⟩ | ⟨_, _, _, -, -, rfl⟩ :=
    step_next h
  · exact .inl ⟨hp, rfl⟩
  · exact .inr (.inl ⟨rest, hport⟩)
  · by_cases hi : i = .closeSess
    · subst hi
      exact .inr (.inr ⟨c, rest, hport, word_of_decodeCommand_closeSess hd⟩)
    · exact .inl (hends.keeps_latch (hs.opened_of_latched hp) hp hi)
  · exact .inl ⟨hp, rfl⟩

/-! ## The status and cause codes (60_exceptions.md R281, R282) -/

theorem status_code_lt_eight (x : Status) : x.code.toNat < 8 := by cases x <;> decide

/-- The codes number the statuses in the order of their definition. -/
theorem status_ofNat_code (x : Status) : Status.ofNat x.code.toNat = x := by cases x <;> rfl

theorem status_code_injective {x y : Status} (h : x.code = y.code) : x = y := by
  rw [← status_ofNat_code x, h, status_ofNat_code]

/-- Settles O5. -/
theorem statusAndCauseCodes : Obligations.StatusAndCauseCodes :=
  ⟨⟨rfl, rfl, rfl, rfl, rfl, rfl, rfl, rfl⟩, ⟨rfl, rfl, rfl, rfl⟩, status_code_lt_eight,
    fun _ _ => status_code_injective⟩

/-! ## The session check and the latch check (60_exceptions.md R285, R286) -/

/-- The commands with a session check answer NOT_OPEN in a closed session, whatever else the state holds. -/
theorem exec_closed_of_mem {s : State} {i : Instr} {data : List Byte} {n : Count} (ho : s.sess = .closed)
    (hi : i ∈ [Instr.closeSess, .append data, .decode, .recv, .consume n]) :
    exec i s = .next (reply .notOpen 0 {} s) := by
  simp only [List.mem_cons, List.not_mem_nil, or_false] at hi
  obtain rfl | rfl | rfl | rfl | rfl := hi
  · exact exec_closeSess_of_closed ho
  · exact exec_append_closed ho
  · exact exec_decode_closed ho
  · exact exec_recv_closed ho
  · exact exec_consume_closed ho

/-- The commands with a latch check answer with the latched cause, whatever RXBUF and N are. -/
theorem exec_latched_of_mem {s : State} {i : Instr} {n : Count} (ho : s.sess = .opened) (hp : s.perr = true)
    (hi : i ∈ [Instr.decode, .recv, .consume n]) : exec i s = .next (reply .protocolError s.pcause {} s) := by
  simp only [List.mem_cons, List.not_mem_nil, or_false] at hi
  obtain rfl | rfl | rfl := hi
  · exact exec_decode_latched ho hp
  · exact exec_recv_latched ho hp
  · exact exec_consume_latched ho hp

/-- Settles O51. -/
theorem latchRefusal : Obligations.LatchRefusal := fun _ _ ho hp _ => exec_latched_of_mem ho hp

/-- Settles O54: a check that fails answers before anything else is read, and writes nothing. -/
theorem sessionThenLatchCheck : Obligations.SessionThenLatchCheck :=
  ⟨fun _ _ _ ho _ hi => ⟨_, _, exec_closed_of_mem ho hi, rfl, rfl, rfl, rfl, rfl, rfl⟩,
    fun _ ho => ⟨_, _, exec_openSess_of_opened ho, rfl, rfl, rfl, rfl, rfl, rfl⟩,
    fun _ _ ho hp _ hi => ⟨_, _, exec_latched_of_mem ho hp hi, rfl, rfl, rfl⟩⟩

end Sys2Proof.Machine

/-! The statements of spec/70_reset_and_hazards.md: the host's receive procedure, runs over any inputs, the reset event,
and what works after it. -/

namespace Sys2Proof.Machine

/-! ## The receive procedure (70_reset_and_hazards.md R334) -/

/-- The host sees the response a command has just added. -/
@[simp] theorem answerOf_reply (st : Status) (cause : BitVec 2) (f : ResponseFields) (s : State) :
    answerOf (.next (reply st cause f s)) = some (responseOf st cause f s, reply st cause f s) := by
  simp [answerOf]

section
variable {s : State}

/-- A read that fits is appended whole, with nothing kept. -/
theorem hostAppend_fits {data : List Byte} (ho : s.sess = .opened)
    (hf : admits Config.rxbufCap (s.rxbuf.length + data.length) = true) :
    hostAppend data s = some (reply .ok 0 {} (rxAppend data s), []) := by
  have happend : execAppend data s = .next (reply .ok 0 {} (rxAppend data s)) := exec_append_fits ho hf
  simp [hostAppend, happend]

/-- A round with a frame in front of the buffer ends the procedure with it. -/
theorem hostRecvFrame_frame {d : DecodedFrame} (ho : s.sess = .opened) (hp : s.perr = false)
    (hd : decodeFrame Config.maxPayloadLen s.rxbuf = .frame d) (rounds : Nat) (reads : List (List Byte)) :
    hostRecvFrame (rounds + 1) reads s =
      (.frame (responseOf .ok 0 (frameFields d) (rxDrop d.consumed s)), reads,
        reply .ok 0 (frameFields d) (rxDrop d.consumed s)) := by
  have hrecv : execRecv s = .next (reply .ok 0 (frameFields d) (rxDrop d.consumed s)) := exec_recv_frame ho hp hd
  simp [hostRecvFrame, hrecv]

/-- A round that needs more bytes appends the next read, if it is not empty and fits, and goes on. -/
theorem hostRecvFrame_needMore {data : List Byte} (ho : s.sess = .opened) (hp : s.perr = false)
    (hd : decodeFrame Config.maxPayloadLen s.rxbuf = .needMore) (hne : data ≠ [])
    (hf : admits Config.rxbufCap (s.rxbuf.length + data.length) = true) (rounds : Nat) (more : List (List Byte)) :
    hostRecvFrame (rounds + 1) (data :: more) s =
      hostRecvFrame rounds more (reply .ok 0 {} (rxAppend data (reply .needMore 0 {} s))) := by
  have hrecv : execRecv s = .next (reply .needMore 0 {} s) := exec_recv_needMore ho hp hd
  have happend := hostAppend_fits (s := reply .needMore 0 {} s) ho hf
  obtain ⟨b, bs, rfl⟩ := List.exists_cons_of_ne_nil hne
  simp only [hostRecvFrame, hrecv, answerOf_reply, responseOf_status, reduceCtorEq, if_false, if_true, happend,
    keepRest]

end

/-- With RXBUF and the reads to come making up the bytes of one frame, the procedure returns it after the last read.
Until then RXBUF holds less than the frame, which needs more bytes, and each read fits as the frame does. -/
theorem hostRecvFrame_reassembles {bytes : List Byte} {d : DecodedFrame}
    (hd : decodeFrame Config.maxPayloadLen bytes = .frame d) (hall : d.consumed = bytes.length)
    (reads : List (List Byte)) (s : State) (ho : s.sess = .opened) (hp : s.perr = false)
    (hne : ∀ x ∈ reads, x ≠ []) (hsplit : bytes = s.rxbuf ++ reads.flatten) :
    ∃ r t, hostRecvFrame (reads.length + 1) reads s = (.frame r, [], t) ∧ r.toResponseFields = frameFields d ∧
      t.rxbuf = [] := by
  induction reads generalizing s with
  | nil =>
    obtain rfl : bytes = s.rxbuf := by simpa using hsplit
    exact ⟨_, _, hostRecvFrame_frame ho hp hd 0 [], rfl, by simp [hall]⟩
  | cons x more ih =>
    obtain ⟨hx, hmore⟩ := List.forall_mem_cons.mp hne
    have hneed : decodeFrame Config.maxPayloadLen s.rxbuf = .needMore :=
      partialBufferLaw _ _ _ hd hall _ _ hsplit (by simp [hx])
    have hfits : admits Config.rxbufCap (s.rxbuf.length + x.length) = true := by
      have hle := hall ▸ consumed_le_of_decodeFrame hd
      rw [hsplit, List.flatten_cons, ← List.append_assoc, List.length_append, List.length_append] at hle
      exact admits_of_le_maxPayloadLen (Nat.le_of_add_right_le hle)
    rw [List.length_cons, hostRecvFrame_needMore ho hp hneed hx hfits]
    exact ih _ ho hp hmore (by simp [hsplit])

/-- Settles O60: the decoder reads the frame back from its bytes, and RXBUF starts empty. -/
theorem receiveProcedureReassembles : Obligations.ReceiveProcedureReassembles := by
  intro s i bytes opc f reads ho hp hbuf hwf henc hframe hcap hne hreads
  obtain ⟨opc', f', rfl, hframe', rfl⟩ := encode_eq_wire henc
  obtain ⟨rfl, rfl⟩ : opc' = opc ∧ f' = f := by simpa [hframe'] using hframe
  rw [Instr.wf, hframe'] at hwf
  have hd := decodeFrame_frameBytes Config.maxPayloadLen opc' hwf []
  rw [List.append_nil, overCap_config, if_neg (by simpa using hcap)] at hd
  obtain ⟨r, t, hrun, hfields, hempty⟩ := hostRecvFrame_reassembles hd (frameBytes_length opc' f').symm reads s ho hp
    hne (by rw [hbuf, hreads, List.nil_append])
  exact ⟨r, t, hrun, congrArg (·.out) hfields, congrArg (·.opc) hfields, congrArg (·.fin) hfields,
    congrArg (·.key) hfields, hempty⟩

/-! ## Runs over any inputs (70_reset_and_hazards.md R346) -/

theorem commandCount_command (c : Command) (rest : List HostInput) :
    commandCount (.command c :: rest) = commandCount rest + 1 := List.countP_cons_of_pos rfl

theorem commandCount_reset (rest : List HostInput) : commandCount (.reset :: rest) = commandCount rest :=
  List.countP_cons_of_neg Bool.false_ne_true

/-- A step at an input takes it from the port and adds as many responses as it is commands. -/
theorem step_input {s : State} {x : HostInput} {rest : List HostInput} (hport : s.port = x :: rest) :
    ∃ u new, step s = .next u ∧ u.port = rest ∧ u.responses = s.responses ++ new ∧
      new.length + commandCount rest = commandCount (x :: rest) := by
  cases x with
  | reset => exact ⟨_, [], step_reset_event hport, rfl, (List.append_nil _).symm, by simp [commandCount_reset]⟩
  | command c =>
    obtain ⟨st, cause, f, u, hstep, hu, hlog⟩ := step_command_replies hport
    exact ⟨_, [responseOf st cause f u], hstep, hu, by simp [hlog],
      by simp [commandCount_command, Nat.add_comm]⟩

/-- A run over the inputs on the port, input by input: each step's responses come before those of the rest. -/
theorem run_port (inputs : List HostInput) (s : State) (hport : s.port = inputs) :
    ∃ t, Host.Core.run Sys2Proof.core inputs.length s = .next t ∧ t.port = [] ∧
      ∃ new, t.responses = s.responses ++ new ∧ new.length = commandCount inputs := by
  induction inputs generalizing s with
  | nil => exact ⟨s, core_run_zero s, hport, [], (List.append_nil _).symm, rfl⟩
  | cons x rest ih =>
    obtain ⟨u, new, hstep, hu, hlog, hcount⟩ := step_input hport
    obtain ⟨t, hrun, hend, new', hlog', hcount'⟩ := ih u hu
    refine ⟨t, (core_run_succ hstep _).trans hrun, hend, new ++ new', ?_, ?_⟩
    · rw [hlog', hlog, List.append_assoc]
    · rw [List.length_append, hcount', hcount]

/-- Settles O17, by induction on the inputs on the port. -/
theorem runAnswersEveryCommand : Obligations.RunAnswersEveryCommand := fun s => run_port s.port s rfl

/-! ## After reset (70_reset_and_hazards.md R331) -/

/-- Only the session check answers NOT_OPEN. -/
theorem Ends.closed_of_notOpen {i : Instr} {s u : State} {cause : BitVec 2} {f : ResponseFields}
    (h : Ends i s .notOpen cause f u) : s.sess = .closed := by
  cases h with
  | notOpen _ ho => exact ho

/-- In an open session every meaning answers with a status other than NOT_OPEN. -/
theorem exec_ne_notOpen {s : State} (ho : s.sess = .opened) (i : Instr) :
    ∃ t r, exec i s = .next t ∧ t.responses = s.responses ++ [r] ∧ r.status ≠ .notOpen := by
  obtain ⟨t, ht⟩ := completes_exec i s
  obtain ⟨st, cause, f, u, rfl, hends⟩ := exec_answers i s t ht
  refine ⟨_, responseOf st cause f u, ht, by simp [hends.port_responses], ?_⟩
  rintro rfl
  exact absurd (ho.symm.trans hends.closed_of_notOpen) nofun

/-- A step at an input that is not the OPEN word leaves a closed session closed. -/
theorem step_keeps_closed {s t : State} (ho : s.sess = .closed)
    (hword : ∀ c rest, s.port = .command c :: rest → c.word ≠ 0x10000000) (h : step s = .next t) :
    t.sess = .closed := by
  by_contra hne
  obtain ⟨c, rest, hport, hopen, -⟩ | ⟨_, _, -, -, hopened, -⟩ | ⟨_, -, hopened, -⟩ :=
    step_sess_moves h fun heq => hne (heq.trans ho)
  · exact hword c rest hport hopen
  · simp [ho] at hopened
  · simp [ho] at hopened

/-- Settles O50: ENCODE and STATUS make no session check, and of the others only OPEN passes in a closed session. -/
theorem afterReset : Obligations.AfterReset := by
  refine ⟨rfl, fun s fin opc msk key data _ hkey hlen => ?_, fun s _ => ⟨_, _, exec_status s, rfl, rfl⟩,
    fun s data n ho i hi => ?_, fun s t => step_keeps_closed, fun s ho => ?_, fun s _ _ ho i _ => exec_ne_notOpen ho i⟩
  · exact ⟨_, _, exec_encode_encodedFrame hkey hlen opc s, rfl, rfl⟩
  · exact ⟨_, _, exec_closed_of_mem ho (List.mem_cons_of_mem _ hi), rfl, rfl, ho⟩
  · exact ⟨_, _, exec_openSess_of_closed ho, rfl, rfl, rfl⟩

/-! ## A step that is not a command (70_reset_and_hazards.md R330, R346) -/

/-- Settles O3. -/
theorem resetEventClearsBlock : Obligations.ResetEventClearsBlock := fun _ _ => step_reset_event

/-- Settles O9. -/
theorem noInputNothingHappens : Obligations.NoInputNothingHappens := fun _ => step_no_input

end Sys2Proof.Machine
